-- ==== Sys2Proof/Word.lean ====
section
/-! DEFINITION. The widths the spec gives its words (00_scope.md R9, 10_state.md R21 to R37): only names for
bit vectors of fixed width, no behaviour. -/

namespace Sys2Proof

/-- An 8-bit unsigned value: a reading, a threshold, one byte of a frame (R21, R22, R60). -/
abbrev Byte := BitVec 8

/-- The 20-bit delay timer's word (R27). -/
abbrev Ticks := BitVec 20

/-- The 40-bit frame, bit 39 the first bit received (R24, R62). -/
abbrev Frame := BitVec 40

/-- One bit per button, bit 0 UP, 1 DOWN, 2 MODE, 3 OK (R33, R40). -/
abbrev Buttons := BitVec 4

end Sys2Proof
end

