-- ==== Sys2Proof/Syntax.lean ====
section
/-! DEFINITION. The names of the spec: the states of the two state registers, the small enumerations, and the operations.
`Instr` has one constructor per row of spec/opcode_table.json (30_encoding.md R91, R98). -/

namespace Sys2Proof

/-- The monitored quantity (R90): code 0 Temperature, 1 Humidity. -/
inductive Quantity
  | temperature
  | humidity
  deriving DecidableEq, Repr, Inhabited

/-- The selected bound (R90): code 1 High, 0 Low. -/
inductive Bound
  | low
  | high
  deriving DecidableEq, Repr, Inhabited

/-- The four buttons (R33, R40). -/
inductive Button
  | up
  | down
  | mode
  | ok
  deriving DecidableEq, Repr, Inhabited

/-- The outcome of the last finished poll (R31, R240). Code 3 is reserved and unrepresentable (R95, U2). -/
inductive PollError
  | none
  | noResponse
  | checksumMismatch
  deriving DecidableEq, Repr, Inhabited

/-- AlarmState (R32). Code 3 is reserved and unrepresentable (R95, U2). -/
inductive AlarmState
  | normal
  | confirming
  | sustained
  deriving DecidableEq, Repr, Inhabited

/-- The ten states of the decoder (R89). The reserved codes 10 to 15 are unrepresentable (R95, U1). -/
inductive SpdState
  | idle
  | startLow
  | startHigh
  | ackL1
  | ackH
  | ackL2
  | bitRise
  | bitDelay
  | bitFall
  | check
  deriving DecidableEq, Repr, Inhabited

/-- The 23 states of the main sequencer (R88). The reserved codes 23 to 31 are unrepresentable (R95, U1). -/
inductive SeqState
  | sGap
  | sPoll
  | sShow
  | sEntry
  | sEntrySettle
  | cDraw
  | cDelay
  | cChkMode
  | cSetMode
  | cChkUp
  | cSetUp
  | cChkDown
  | cSetDown
  | cChkOk
  | cSetOk
  | eGate
  | aConfPoll
  | aConfCount
  | aConfGap
  | aConfDecide
  | aSustPoll
  | aSustChk
  | aSustGap
  deriving DecidableEq, Repr, Inhabited

/-- The operations, one constructor per row of spec/opcode_table.json; the arguments are the fields of the row's encoding
(R84, R86, R87), in the order of the pattern string. -/
inductive Instr
  -- SPD4 (R89): the decoder's states
  | idle
  | startLow
  | startHigh
  | ackL1
  | ackH
  | ackL2
  | bitRise
  | bitDelay
  | bitFall
  | check
  -- FRAME40 (R84): the two outcomes of CHECK, with the five bytes of the frame
  | checkOk (h f t g c : Byte)
  | checkBad (h f t g c : Byte)
  -- SEQ5 (R88): the sequencer's states
  | sGap
  | sPoll
  | sShow
  | sEntry
  | sEntrySettle
  | cDraw
  | cDelay
  | cChkMode
  | cSetMode
  | cChkUp
  | cSetUp
  | cChkDown
  | cSetDown
  | cChkOk
  | cSetOk
  | eGate
  | aConfPoll
  | aConfCount
  | aConfGap
  | aConfDecide
  | aSustPoll
  | aSustChk
  | aSustGap
  -- EVT5 (R87): the event operations, with the fields that do not select
  | selhi (q : Quantity) (b : Bound)
  | incTh
  | incTl
  | incHh
  | incHl
  | sello (q : Quantity) (b : Bound)
  | decTh
  | decTl
  | decHh
  | decHl
  | toggle (held : Bool) (q : Quantity) (b : Bound)
  | oktap (q : Quantity) (b : Bound)
  | exit (q : Quantity) (b : Bound)
  -- PEND4 (R86): the two patterns that select ENTER, with the flags the pattern leaves open
  | enterMode (ok down up : Bool)
  | enterUpDown (ok mode : Bool)
  deriving DecidableEq, Repr

end Sys2Proof
end

