-- ==== Sys2Proof/WellFormed.lean ====
section
/-! DEFINITION. Which terms of `Instr` are an operation some word selects: the arithmetic conditions (`cond`) that
spec/opcode_table.json puts beside the bits (30_encoding.md R85, R98). -/

namespace Sys2Proof

/-- `CHECK.OK` and `CHECK.BAD` share their bits and differ by the checksum (R85, R98). The two patterns of ENTER overlap
at `x111` (R98, "harmless"); the word `x111` is read as the MODE row's, so the other row stands for words with MODE
clear. Every other term is well-formed. -/
def Instr.wf : Instr → Bool
  | .checkOk h f t g c => (h.toNat + f.toNat + t.toNat + g.toNat) % 256 == c.toNat
  | .checkBad h f t g c => (h.toNat + f.toNat + t.toNat + g.toNat) % 256 != c.toNat
  | .enterUpDown _ mode => !mode
  | .idle | .startLow | .startHigh | .ackL1 | .ackH | .ackL2 | .bitRise | .bitDelay | .bitFall | .check => true
  | .sGap | .sPoll | .sShow | .sEntry | .sEntrySettle => true
  | .cDraw | .cDelay | .cChkMode | .cSetMode | .cChkUp | .cSetUp | .cChkDown | .cSetDown | .cChkOk | .cSetOk => true
  | .eGate | .aConfPoll | .aConfCount | .aConfGap | .aConfDecide | .aSustPoll | .aSustChk | .aSustGap => true
  | .selhi _ _ | .incTh | .incTl | .incHh | .incHl | .sello _ _ | .decTh | .decTl | .decHh | .decHl => true
  | .toggle _ _ _ | .oktap _ _ | .exit _ _ | .enterMode _ _ _ => true

end Sys2Proof
end

