-- ==== Sys2Proof/Decode.lean ====
section
/-! DEFINITION. The numeric codes, the decoder and the encoder (30_encoding.md R80 to R98). A word is decoded inside its
format, because "the format is fixed by which register or word is being decoded" (R98); `CodeWord` carries that format. -/

namespace Sys2Proof

/-! ### Small codes (R90) -/

/-- Quantity 0 = Temperature, 1 = Humidity (R29, R90). -/
def Quantity.code : Quantity → Bool
  | .temperature => false
  | .humidity => true

/-- The quantity a `sel_q` bit names (R90). -/
def Quantity.ofCode : Bool → Quantity
  | false => .temperature
  | true => .humidity

/-- Bound 1 = High, 0 = Low (R29, R90). -/
def Bound.code : Bound → Bool
  | .low => false
  | .high => true

/-- The bound a `sel_b` bit names (R90). -/
def Bound.ofCode : Bool → Bound
  | false => .low
  | true => .high

/-- The button's bit in `btn` and `pend`, and its `id` in `EVT5` (R86, R87). -/
def Button.index : Button → Nat
  | .up => 0
  | .down => 1
  | .mode => 2
  | .ok => 3

/-- `err` on its port (R31). -/
def PollError.code : PollError → BitVec 2
  | .none => 0
  | .noResponse => 1
  | .checksumMismatch => 2

/-- `alarm_t`, `alarm_h` on their ports (R32). -/
def AlarmState.code : AlarmState → BitVec 2
  | .normal => 0
  | .confirming => 1
  | .sustained => 2

/-- The codes of `spd` (R89). -/
def SpdState.code : SpdState → BitVec 4
  | .idle => 0
  | .startLow => 1
  | .startHigh => 2
  | .ackL1 => 3
  | .ackH => 4
  | .ackL2 => 5
  | .bitRise => 6
  | .bitDelay => 7
  | .bitFall => 8
  | .check => 9

/-- The state of a `spd` code; none for the reserved codes 10 to 15 (R89, R95). -/
def SpdState.ofCode (w : BitVec 4) : Option SpdState :=
  match w.toNat with
  | 0 => some .idle
  | 1 => some .startLow
  | 2 => some .startHigh
  | 3 => some .ackL1
  | 4 => some .ackH
  | 5 => some .ackL2
  | 6 => some .bitRise
  | 7 => some .bitDelay
  | 8 => some .bitFall
  | 9 => some .check
  | _ => none

/-- The codes of `seq` (R88). -/
def SeqState.code : SeqState → BitVec 5
  | .sGap => 0
  | .sPoll => 1
  | .sShow => 2
  | .sEntry => 3
  | .sEntrySettle => 4
  | .cDraw => 5
  | .cDelay => 6
  | .cChkMode => 7
  | .cSetMode => 8
  | .cChkUp => 9
  | .cSetUp => 10
  | .cChkDown => 11
  | .cSetDown => 12
  | .cChkOk => 13
  | .cSetOk => 14
  | .eGate => 15
  | .aConfPoll => 16
  | .aConfCount => 17
  | .aConfGap => 18
  | .aConfDecide => 19
  | .aSustPoll => 20
  | .aSustChk => 21
  | .aSustGap => 22

/-- The state of a `seq` code; none for the reserved codes 23 to 31 (R88, R95). -/
def SeqState.ofCode (w : BitVec 5) : Option SeqState :=
  match w.toNat with
  | 0 => some .sGap
  | 1 => some .sPoll
  | 2 => some .sShow
  | 3 => some .sEntry
  | 4 => some .sEntrySettle
  | 5 => some .cDraw
  | 6 => some .cDelay
  | 7 => some .cChkMode
  | 8 => some .cSetMode
  | 9 => some .cChkUp
  | 10 => some .cSetUp
  | 11 => some .cChkDown
  | 12 => some .cSetDown
  | 13 => some .cChkOk
  | 14 => some .cSetOk
  | 15 => some .eGate
  | 16 => some .aConfPoll
  | 17 => some .aConfCount
  | 18 => some .aConfGap
  | 19 => some .aConfDecide
  | 20 => some .aSustPoll
  | 21 => some .aSustChk
  | 22 => some .aSustGap
  | _ => none

/-- The operation a decoder state is (R89). -/
def SpdState.instr : SpdState → Instr
  | .idle => .idle
  | .startLow => .startLow
  | .startHigh => .startHigh
  | .ackL1 => .ackL1
  | .ackH => .ackH
  | .ackL2 => .ackL2
  | .bitRise => .bitRise
  | .bitDelay => .bitDelay
  | .bitFall => .bitFall
  | .check => .check

/-- The operation a sequencer state is (R88 "Each state is one operation"). -/
def SeqState.instr : SeqState → Instr
  | .sGap => .sGap
  | .sPoll => .sPoll
  | .sShow => .sShow
  | .sEntry => .sEntry
  | .sEntrySettle => .sEntrySettle
  | .cDraw => .cDraw
  | .cDelay => .cDelay
  | .cChkMode => .cChkMode
  | .cSetMode => .cSetMode
  | .cChkUp => .cChkUp
  | .cSetUp => .cSetUp
  | .cChkDown => .cChkDown
  | .cSetDown => .cSetDown
  | .cChkOk => .cChkOk
  | .cSetOk => .cSetOk
  | .eGate => .eGate
  | .aConfPoll => .aConfPoll
  | .aConfCount => .aConfCount
  | .aConfGap => .aConfGap
  | .aConfDecide => .aConfDecide
  | .aSustPoll => .aSustPoll
  | .aSustChk => .aSustChk
  | .aSustGap => .aSustGap

/-! ### The frame's bytes and its checksum (R62, R84, R85) -/

/-- Byte `b[i]` of a frame: `b[0] = frame[39:32]` … `b[4] = frame[7:0]` (R62, R84). -/
def frameByte (f : Frame) (i : Fin 5) : Byte :=
  f.extractLsb' (8 * (4 - i.val)) 8

/-- `sum = (b[0] + b[1] + b[2] + b[3]) mod 256` on natural numbers (R85, R123). -/
def frameSum (f : Frame) : Nat :=
  ((frameByte f 0).toNat + (frameByte f 1).toNat + (frameByte f 2).toNat + (frameByte f 3).toNat) % 256

/-- "the frame is good iff `sum == b[4]`" (R85, R94). -/
def frameGood (f : Frame) : Bool :=
  frameSum f == (frameByte f 4).toNat

/-- A frame from its five bytes, `b[0]` in the most significant bits (R84). -/
def frameOf (h f t g c : Byte) : Frame :=
  h ++ f ++ t ++ g ++ c

/-! ### Words and the decoder -/

/-- A word together with the format it is decoded in (R80, R98). -/
inductive CodeWord
  | spd4 (w : BitVec 4)
  | frame40 (f : Frame)
  | seq5 (w : BitVec 5)
  | evt5 (w : BitVec 5)
  | pend4 (w : Buttons)
  deriving DecidableEq, Repr

/-- Why a word selects no operation. -/
inductive DecodeError
  /-- A `spd` code 10 to 15 (R95, U1). -/
  | reservedSpd (w : BitVec 4)
  /-- A `seq` code 23 to 31 (R95, U1). -/
  | reservedSeq (w : BitVec 5)
  /-- A `PEND4` word that matches neither pattern of ENTER: it "selects nothing" (R86). -/
  | noTrigger (w : Buttons)
  /-- A number of bits and a value that are no word of any format (R80, R96). -/
  | noFormat (nbits w : Nat)
  deriving DecidableEq, Repr

/-- `EVT5 = {id[1:0], held, sel_q, sel_b}`, the table of R87; all 32 values are covered. -/
def decodeEvt (w : BitVec 5) : Instr :=
  let held := w.getLsbD 2
  let q := Quantity.ofCode (w.getLsbD 1)
  let b := Bound.ofCode (w.getLsbD 0)
  match w.getLsbD 4, w.getLsbD 3, held, q, b with
  | false, false, false, q, b => .selhi q b
  | false, false, true, .temperature, .high => .incTh
  | false, false, true, .temperature, .low => .incTl
  | false, false, true, .humidity, .high => .incHh
  | false, false, true, .humidity, .low => .incHl
  | false, true, false, q, b => .sello q b
  | false, true, true, .temperature, .high => .decTh
  | false, true, true, .temperature, .low => .decTl
  | false, true, true, .humidity, .high => .decHh
  | false, true, true, .humidity, .low => .decHl
  | true, false, h, q, b => .toggle h q b
  | true, true, false, q, b => .oktap q b
  | true, true, true, q, b => .exit q b

/-- The patterns `x1xx` and `xx11` of ENTER on `{OK, MODE, DOWN, UP}` (R86); `x111` is read as the first. -/
def decodePend (w : Buttons) : Except DecodeError Instr :=
  if w.getLsbD 2 then .ok (.enterMode (w.getLsbD 3) (w.getLsbD 1) (w.getLsbD 0))
  else if w.getLsbD 1 && w.getLsbD 0 then .ok (.enterUpDown (w.getLsbD 3) (w.getLsbD 2))
  else .error (.noTrigger w)

/-- CHECK's two outcomes, told apart "by arithmetic on the fields, not by fixed bits" (R84, R123). -/
def decodeFrame (f : Frame) : Instr :=
  if frameGood f then .checkOk (frameByte f 0) (frameByte f 1) (frameByte f 2) (frameByte f 3) (frameByte f 4)
  else .checkBad (frameByte f 0) (frameByte f 1) (frameByte f 2) (frameByte f 3) (frameByte f 4)

/-- The decoder, total on every word of every format. -/
def decode : CodeWord → Except DecodeError Instr
  | .spd4 w =>
    match SpdState.ofCode w with
    | some p => .ok p.instr
    | none => .error (.reservedSpd w)
  | .seq5 w =>
    match SeqState.ofCode w with
    | some q => .ok q.instr
    | none => .error (.reservedSeq w)
  | .evt5 w => .ok (decodeEvt w)
  | .pend4 w => decodePend w
  | .frame40 f => .ok (decodeFrame f)

/-! ### The encoder -/

/-- The `EVT5` word of its five fields (R87). -/
def evtWord (id : BitVec 2) (held : Bool) (q : Quantity) (b : Bound) : BitVec 5 :=
  id ++ BitVec.ofBool held ++ BitVec.ofBool q.code ++ BitVec.ofBool b.code

/-- The `PEND4` word `{OK, MODE, DOWN, UP}` (R86). -/
def pendWord (ok mode down up : Bool) : Buttons :=
  BitVec.ofBool ok ++ BitVec.ofBool mode ++ BitVec.ofBool down ++ BitVec.ofBool up

/-- The word of an operation, from the tables R84, R86 to R89. -/
def encode : Instr → CodeWord
  | .idle => .spd4 0b0000
  | .startLow => .spd4 0b0001
  | .startHigh => .spd4 0b0010
  | .ackL1 => .spd4 0b0011
  | .ackH => .spd4 0b0100
  | .ackL2 => .spd4 0b0101
  | .bitRise => .spd4 0b0110
  | .bitDelay => .spd4 0b0111
  | .bitFall => .spd4 0b1000
  | .check => .spd4 0b1001
  | .checkOk h f t g c => .frame40 (frameOf h f t g c)
  | .checkBad h f t g c => .frame40 (frameOf h f t g c)
  | .sGap => .seq5 0b00000
  | .sPoll => .seq5 0b00001
  | .sShow => .seq5 0b00010
  | .sEntry => .seq5 0b00011
  | .sEntrySettle => .seq5 0b00100
  | .cDraw => .seq5 0b00101
  | .cDelay => .seq5 0b00110
  | .cChkMode => .seq5 0b00111
  | .cSetMode => .seq5 0b01000
  | .cChkUp => .seq5 0b01001
  | .cSetUp => .seq5 0b01010
  | .cChkDown => .seq5 0b01011
  | .cSetDown => .seq5 0b01100
  | .cChkOk => .seq5 0b01101
  | .cSetOk => .seq5 0b01110
  | .eGate => .seq5 0b01111
  | .aConfPoll => .seq5 0b10000
  | .aConfCount => .seq5 0b10001
  | .aConfGap => .seq5 0b10010
  | .aConfDecide => .seq5 0b10011
  | .aSustPoll => .seq5 0b10100
  | .aSustChk => .seq5 0b10101
  | .aSustGap => .seq5 0b10110
  | .selhi q b => .evt5 (evtWord 0 false q b)
  | .incTh => .evt5 (evtWord 0 true .temperature .high)
  | .incTl => .evt5 (evtWord 0 true .temperature .low)
  | .incHh => .evt5 (evtWord 0 true .humidity .high)
  | .incHl => .evt5 (evtWord 0 true .humidity .low)
  | .sello q b => .evt5 (evtWord 1 false q b)
  | .decTh => .evt5 (evtWord 1 true .temperature .high)
  | .decTl => .evt5 (evtWord 1 true .temperature .low)
  | .decHh => .evt5 (evtWord 1 true .humidity .high)
  | .decHl => .evt5 (evtWord 1 true .humidity .low)
  | .toggle h q b => .evt5 (evtWord 2 h q b)
  | .oktap q b => .evt5 (evtWord 3 false q b)
  | .exit q b => .evt5 (evtWord 3 true q b)
  | .enterMode ok down up => .pend4 (pendWord ok true down up)
  | .enterUpDown ok mode => .pend4 (pendWord ok mode true true)

/-! ### The rows of spec/opcode_table.json -/

/-- A word's format (R80), without the word. -/
inductive Format
  | spd4
  | frame40
  | seq5
  | evt5
  | pend4
  deriving DecidableEq, Repr

/-- The format of a word. -/
def CodeWord.format : CodeWord → Format
  | .spd4 _ => .spd4
  | .frame40 _ => .frame40
  | .seq5 _ => .seq5
  | .evt5 _ => .evt5
  | .pend4 _ => .pend4

/-- The word as a number, bit 0 its least significant bit. -/
def CodeWord.bits : CodeWord → Nat
  | .spd4 w => w.toNat
  | .frame40 f => f.toNat
  | .seq5 w => w.toNat
  | .evt5 w => w.toNat
  | .pend4 w => w.toNat

/-- One row of the table: a word `w` of the format selects it iff `w & mask == match` (R98). -/
structure TableRow where
  format : Format
  mask : Nat
  value : Nat
  deriving DecidableEq, Repr

/-- The table's row of each operation. -/
def Instr.row : Instr → TableRow
  | .idle => ⟨.spd4, 0xF, 0x0⟩
  | .startLow => ⟨.spd4, 0xF, 0x1⟩
  | .startHigh => ⟨.spd4, 0xF, 0x2⟩
  | .ackL1 => ⟨.spd4, 0xF, 0x3⟩
  | .ackH => ⟨.spd4, 0xF, 0x4⟩
  | .ackL2 => ⟨.spd4, 0xF, 0x5⟩
  | .bitRise => ⟨.spd4, 0xF, 0x6⟩
  | .bitDelay => ⟨.spd4, 0xF, 0x7⟩
  | .bitFall => ⟨.spd4, 0xF, 0x8⟩
  | .check => ⟨.spd4, 0xF, 0x9⟩
  | .checkOk _ _ _ _ _ => ⟨.frame40, 0x0, 0x0⟩
  | .checkBad _ _ _ _ _ => ⟨.frame40, 0x0, 0x0⟩
  | .sGap => ⟨.seq5, 0x1F, 0x00⟩
  | .sPoll => ⟨.seq5, 0x1F, 0x01⟩
  | .sShow => ⟨.seq5, 0x1F, 0x02⟩
  | .sEntry => ⟨.seq5, 0x1F, 0x03⟩
  | .sEntrySettle => ⟨.seq5, 0x1F, 0x04⟩
  | .cDraw => ⟨.seq5, 0x1F, 0x05⟩
  | .cDelay => ⟨.seq5, 0x1F, 0x06⟩
  | .cChkMode => ⟨.seq5, 0x1F, 0x07⟩
  | .cSetMode => ⟨.seq5, 0x1F, 0x08⟩
  | .cChkUp => ⟨.seq5, 0x1F, 0x09⟩
  | .cSetUp => ⟨.seq5, 0x1F, 0x0A⟩
  | .cChkDown => ⟨.seq5, 0x1F, 0x0B⟩
  | .cSetDown => ⟨.seq5, 0x1F, 0x0C⟩
  | .cChkOk => ⟨.seq5, 0x1F, 0x0D⟩
  | .cSetOk => ⟨.seq5, 0x1F, 0x0E⟩
  | .eGate => ⟨.seq5, 0x1F, 0x0F⟩
  | .aConfPoll => ⟨.seq5, 0x1F, 0x10⟩
  | .aConfCount => ⟨.seq5, 0x1F, 0x11⟩
  | .aConfGap => ⟨.seq5, 0x1F, 0x12⟩
  | .aConfDecide => ⟨.seq5, 0x1F, 0x13⟩
  | .aSustPoll => ⟨.seq5, 0x1F, 0x14⟩
  | .aSustChk => ⟨.seq5, 0x1F, 0x15⟩
  | .aSustGap => ⟨.seq5, 0x1F, 0x16⟩
  | .selhi _ _ => ⟨.evt5, 0x1C, 0x00⟩
  | .incTh => ⟨.evt5, 0x1F, 0x05⟩
  | .incTl => ⟨.evt5, 0x1F, 0x04⟩
  | .incHh => ⟨.evt5, 0x1F, 0x07⟩
  | .incHl => ⟨.evt5, 0x1F, 0x06⟩
  | .sello _ _ => ⟨.evt5, 0x1C, 0x08⟩
  | .decTh => ⟨.evt5, 0x1F, 0x0D⟩
  | .decTl => ⟨.evt5, 0x1F, 0x0C⟩
  | .decHh => ⟨.evt5, 0x1F, 0x0F⟩
  | .decHl => ⟨.evt5, 0x1F, 0x0E⟩
  | .toggle _ _ _ => ⟨.evt5, 0x18, 0x10⟩
  | .oktap _ _ => ⟨.evt5, 0x1C, 0x18⟩
  | .exit _ _ => ⟨.evt5, 0x1C, 0x1C⟩
  | .enterMode _ _ _ => ⟨.pend4, 0x4, 0x4⟩
  | .enterUpDown _ _ => ⟨.pend4, 0x3, 0x3⟩

/-! ### A bare number without its format -/

/-- The word a bare number of `nbits` bits is read as. The hardware always knows the format from the register being decoded
(R98); a bare number does not carry it, and the four formats of at most five bits share their values. DESIGN CHOICE (log
entry 7): 40 bits are a frame, 4 bits a `spd` code, and 5 bits or one byte a `seq` code where one exists (0 to 22), else an
`EVT5` word (23 to 31). -/
def readTableWord (nbits w : Nat) : Except DecodeError CodeWord :=
  if nbits = 40 then
    if w < 2 ^ 40 then .ok (.frame40 (BitVec.ofNat 40 w)) else .error (.noFormat nbits w)
  else if nbits = 4 then
    if w < 2 ^ 4 then .ok (.spd4 (BitVec.ofNat 4 w)) else .error (.noFormat nbits w)
  else if nbits = 5 ∨ nbits = 8 then
    if w < 23 then .ok (.seq5 (BitVec.ofNat 5 w))
    else if w < 32 then .ok (.evt5 (BitVec.ofNat 5 w))
    else .error (.noFormat nbits w)
  else .error (.noFormat nbits w)

/-- The operation the decoder reads from a bare number of `nbits` bits, under `readTableWord`'s choice of format. -/
def decodeTableWord (nbits w : Nat) : Option Instr :=
  match readTableWord nbits w with
  | .ok cw =>
    match decode cw with
    | .ok i => some i
    | .error _ => none
  | .error _ => none

end Sys2Proof
end

