-- ==== Sys2Proof/Machine/Constants.lean ====
section
/-! DEFINITION. The constants the source fixes (00_scope.md R7), in ticks of 1 µs, degrees and percent. -/

namespace Sys2Proof.Machine

/-- `T_START_LOW` (R7). -/
def tStartLow : Nat := 20000

/-- `T_START_HIGH` (R7). -/
def tStartHigh : Nat := 20

/-- `T_SAMPLE` (R7). -/
def tSample : Nat := 30

/-- `FRAME_BITS` (R7). -/
def frameBits : Nat := 40

/-- `T_SETTLE` (R7). -/
def tSettle : Nat := 1000000

/-- `T_CFG_REFRESH` (R7). -/
def tCfgRefresh : Nat := 200000

/-- `N_CONF` (R7). -/
def nConf : Nat := 3

/-- `T_CONF_GAP` (R7). -/
def tConfGap : Nat := 200000

/-- `T_SUST_PERIOD` (R7). -/
def tSustPeriod : Nat := 300000

/-- `TEMP_STEP` (R7). -/
def tempStep : Nat := 1

/-- `TEMP_HIGH_CAP` (R7). -/
def tempHighCap : Nat := 50

/-- `TEMP_FLOOR` (R7). -/
def tempFloor : Nat := 0

/-- `HUM_STEP` (R7). -/
def humStep : Nat := 10

/-- `HUM_CAP` (R7). -/
def humCap : Nat := 90

/-- `HUM_FLOOR` (R7). -/
def humFloor : Nat := 10

end Sys2Proof.Machine
end

