-- ==== Sys2Proof/Config.lean ====
section
/-! DEFINITION. What an instance of the block fixes and the spec leaves open: the two open parameters of 00_scope.md R8,
the levels the environment drives once a written trace has run out, and the values the spec does not state in states no
run reaches. Every `opaque` constant here has no body, so no proof can learn its value. -/

namespace Sys2Proof.Config

/-- `WAIT_TIMEOUT_TICKS`' default, "the spec's choice" (R8, D5): the value `State.reset` takes. -/
def waitTimeoutDefault : Nat := 1000

/-- `LOOP_GAP_TICKS - 1` of the instance that `State.reset` describes. R8 gives the parameter no default, so the value is
free; 20 bits hold exactly the numbers `0 … 1 048 575`, so `1 ≤ LOOP_GAP_TICKS ≤ 1 048 576` holds by the type. -/
opaque loopGapLast : Ticks

/-- `rst` at tick number `n` once the written trace has run out: free, the environment chooses (R20). -/
opaque envRst : Nat → Bool

/-- `dq_in` at tick number `n` once the written trace has run out: free (R20). -/
opaque envDqIn : Nat → Bool

/-- `btn` at tick number `n` once the written trace has run out: free (R20, U12). -/
opaque envBtn : Nat → Buttons

/-- What `tmr` holds after `tmr + 1` at `tmr = 1 048 575`: the sum does not fit 20 bits and R11 has no wrap. Free; no run
reaches it (R253 "never wraps"). -/
opaque tmrPastEnd : Ticks

/-- What `bitcnt` holds after `bitcnt + 1` at `bitcnt = 63`. Free; no run reaches it (R189 item 5). -/
opaque bitcntPastEnd : BitVec 6

/-- What `oor_cnt` or `samp_idx` holds after a count past 3. Free; no run reaches it (R189 item 5). -/
opaque countPastEnd : BitVec 2

/-- Which value lands in `tmr` when a decoder rule and a sequencer rule write different values at one tick. R222 shows it
does not happen in a run; the value is free. -/
opaque tmrTwoWriters : Ticks → Ticks → Ticks

/-- As `tmrTwoWriters`, for `spd`. -/
opaque spdTwoWriters : SpdState → SpdState → SpdState

/-- As `tmrTwoWriters`, for `frame`. -/
opaque frameTwoWriters : Frame → Frame → Frame

/-- As `tmrTwoWriters`, for `bitcnt`. -/
opaque bitcntTwoWriters : BitVec 6 → BitVec 6 → BitVec 6

end Sys2Proof.Config
end

