-- ==== Sys2Proof/Machine/State.lean ====
section
/-! DEFINITION. The block's registers (10_state.md R21 to R37), the instance's two parameters, and the levels at its input
ports, as plain data; the reasons a step can stop; the state after reset (R43, R270). -/

namespace Sys2Proof.Machine

/-- The levels of the input ports at one tick (R20, R40), with `rst` (R270). -/
structure Inputs where
  /-- Synchronous reset, active high. -/
  rst : Bool
  /-- The level read from the sensor pin: true = high. -/
  dqIn : Bool
  /-- The four buttons, active high. -/
  btn : Buttons
  deriving DecidableEq, Repr

/-- Everything the block holds between two ticks, and beside it what the model adds so that one deterministic function of
a plain state can be its step: the instance's parameters (`waitLast`, `loopGapLast`) and the environment's levels
(`pins`, `stim`, `tick`). -/
structure State where
  /-- SensorReading: humidity, integer percent (R21). -/
  hum : Byte
  /-- SensorReading: temperature, integer °C (R21). -/
  temp : Byte
  /-- SensorReading: a good poll has been made (R21, R34). -/
  valid : Bool
  /-- ThresholdSet (R22). -/
  tempHigh : Byte
  /-- ThresholdSet (R22). -/
  tempLow : Byte
  /-- ThresholdSet (R22). -/
  humHigh : Byte
  /-- ThresholdSet (R22). -/
  humLow : Byte
  /-- The frame buffer, a shift register (R24, R60). -/
  frame : Frame
  /-- Bits shifted in during this poll (R24). -/
  bitcnt : BitVec 6
  /-- The main sequencer's state, the program-counter analogue (R25). -/
  seq : SeqState
  /-- The decoder's state (R26). -/
  spd : SpdState
  /-- The one delay timer (R27). -/
  tmr : Ticks
  /-- The quantity under evaluation (R28). -/
  curQ : Quantity
  /-- Confirmation samples out of range so far (R28). -/
  oorCnt : BitVec 2
  /-- Confirmation samples counted so far (R28). -/
  sampIdx : BitVec 2
  /-- The selected quantity (R29). -/
  selQ : Quantity
  /-- The selected bound (R29). -/
  selB : Bound
  /-- The outcome of the last finished poll (R31). -/
  err : PollError
  /-- AlarmState of the temperature (R32). -/
  alarmT : AlarmState
  /-- AlarmState of the humidity (R32). -/
  alarmH : AlarmState
  /-- The four pending flags (R33). -/
  pend : Buttons
  /-- The buttons at the previous tick (R37). -/
  btnPrev : Buttons
  /-- The alarm indicator, 1 = lit (R35). -/
  ledAlarm : Bool
  /-- The normal-operation indicator, 1 = lit (R35). -/
  ledNormal : Bool
  /-- The instance's `WAIT_TIMEOUT_TICKS - 1` (R8, R12); the model's own field, no tick writes it. -/
  waitLast : Ticks
  /-- The instance's `LOOP_GAP_TICKS - 1` (R8, R12); the model's own field, no tick writes it. -/
  loopGapLast : Ticks
  /-- The levels at the input ports at the coming tick (R20); the model's own field. -/
  pins : Inputs
  /-- The levels at the ticks after it, the next one first; the model's own field. -/
  stim : List Inputs
  /-- The number of the coming tick, which indexes the free levels once `stim` has run out; the model's own field. -/
  tick : Nat
  deriving DecidableEq, Repr

/-- The reasons the block stops. There is none: "There is no double-fault and no error state that stops the block" (R250),
and the two errors of R240 are recorded in `err` while the block goes on. Safe: a fault cannot arise. -/
inductive Fault
  deriving DecidableEq, Repr

/-- The reasons the model gives no meaning. -/
inductive Refusal
  /-- An operation the model gives no meaning, by its mnemonic. Nothing raises it: every operation has its meaning. Safe. -/
  | notModelled (mnemonic : String)
  /-- Raised by `step` where the code in `seq` is no state's code (R95, U1: "refuse"). The enumeration of `seq` has no such
  value, so no step raises it. Safe. -/
  | reservedCode (e : DecodeError)
  deriving DecidableEq, Repr

/-- The block right after reset (R43, R270). The parameters are the spec's default `WAIT_TIMEOUT_TICKS` and a free
`LOOP_GAP_TICKS` (R8; log entry 1); the levels at the first tick are the idle levels a test bench must drive (R273; log
entry 3), with no reset and nothing written about later ticks. -/
def State.reset : State where
  hum := 0
  temp := 0
  valid := false
  tempHigh := 30
  tempLow := 20
  humHigh := 70
  humLow := 50
  frame := 0
  bitcnt := 0
  seq := .sGap
  spd := .idle
  tmr := 0
  curQ := .temperature
  oorCnt := 0
  sampIdx := 0
  selQ := .temperature
  selB := .high
  err := .none
  alarmT := .normal
  alarmH := .normal
  pend := 0b0000
  btnPrev := 0b1111
  ledAlarm := false
  ledNormal := true
  waitLast := BitVec.ofNat 20 (Config.waitTimeoutDefault - 1)
  loopGapLast := Config.loopGapLast
  pins := ⟨false, true, 0b0000⟩
  stim := []
  tick := 0

end Sys2Proof.Machine
end

