-- ==== Sys2Proof/Machine/Operands.lean ====
section
/-! DEFINITION. The operands the operations read: registers chosen by a quantity or a bound, a button's bits, the words the
tick decodes (30_encoding.md R86, R87, R93; 10_state.md R29, R32). -/

namespace Sys2Proof.Machine

/-- The three states in which a poll runs (R217). -/
def isPolling : SeqState → Bool
  | .sPoll | .aConfPoll | .aSustPoll => true
  | _ => false

/-- The block is in `Configuring` iff `5 <= seq <= 14` (R29, R160). -/
def isConfiguring (q : SeqState) : Bool :=
  5 ≤ q.code.toNat && q.code.toNat ≤ 14

/-- The states of the alarm evaluator's confirmation phase, codes 16 to 19 (R252). -/
def isConfirming (q : SeqState) : Bool :=
  16 ≤ q.code.toNat && q.code.toNat ≤ 19

/-- The states of the alarm evaluator's sustained phase, codes 20 to 22 (R252). -/
def isSustained (q : SeqState) : Bool :=
  20 ≤ q.code.toNat && q.code.toNat ≤ 22

/-- The operator's modes (R252): behavioural, encoded in `seq`. -/
inductive OperatorMode
  | monitoring
  | configuring
  | confirming
  | sustained
  deriving DecidableEq, Repr

/-- The operator's mode of a sequencer state, the table of R252. -/
def operatorMode (q : SeqState) : OperatorMode :=
  if isConfiguring q then .configuring
  else if isConfirming q then .confirming
  else if isSustained q then .sustained
  else .monitoring

/-- `WAIT_TIMEOUT_TICKS` of this instance; `1 ≤ n ≤ 1 048 576` by its width (R8, U3). -/
def State.waitTimeoutTicks (s : State) : Nat :=
  s.waitLast.toNat + 1

/-- `LOOP_GAP_TICKS` of this instance; `1 ≤ n ≤ 1 048 576` by its width (R8, U3). -/
def State.loopGapTicks (s : State) : Nat :=
  s.loopGapLast.toNat + 1

/-- The pending flag of a button (R33). -/
def State.pending (s : State) (b : Button) : Bool :=
  s.pend.getLsbD b.index

/-- The re-sampled level `held = btn[i]` (R144). -/
def State.held (s : State) (b : Button) : Bool :=
  s.pins.btn.getLsbD b.index

/-- The mask with one button's bit. -/
def buttonMask (b : Button) : Buttons :=
  BitVec.ofNat 4 (2 ^ b.index)

/-- The stored value of a quantity: `temp` for Temperature, `hum` for Humidity (R190). -/
def State.reading (s : State) : Quantity → Byte
  | .temperature => s.temp
  | .humidity => s.hum

/-- The threshold named by a quantity and a bound (R93). -/
def State.threshold (s : State) : Quantity → Bound → Byte
  | .temperature, .high => s.tempHigh
  | .temperature, .low => s.tempLow
  | .humidity, .high => s.humHigh
  | .humidity, .low => s.humLow

/-- `alarm[q]` (R32). -/
def State.alarm (s : State) : Quantity → AlarmState
  | .temperature => s.alarmT
  | .humidity => s.alarmH

/-- The `EVT5` word `{id, held, sel_q, sel_b}` of a consumed button event, formed at the last tick of a `C_SET_*` state
(R87). -/
def State.eventWord (s : State) (b : Button) : BitVec 5 :=
  evtWord (BitVec.ofNat 2 b.index) (s.held b) s.selQ s.selB

/-- The word that names the operation executed at a tick: the code in `seq` (R25). There is no instruction store (R71). -/
def State.fetchWord (s : State) : CodeWord :=
  .seq5 s.seq.code

/-- The word of the decoder's state, decoded beside it while a poll runs (R26, R217). -/
def State.decoderWord (s : State) : CodeWord :=
  .spd4 s.spd.code

end Sys2Proof.Machine
end

