-- ==== Sys2Proof/Machine/Flags.lean ====
section
/-! DEFINITION. The conditions the rules test: button edges (42_input_debouncer.md R141), the entry trigger
(43_threshold_config_fsm.md R161), out of range (44_alarm_evaluator.md R190), the end of a poll (45_main_sequencer.md R217). -/

namespace Sys2Proof.Machine

/-- NOTIFY's `edge[i] = btn[i] & ~btn_prev[i]`, all four at once (R141). -/
def State.edges (s : State) : Buttons :=
  s.pins.btn &&& ~~~s.btnPrev

/-- The level a `WAIT` state of the decoder awaits; none for the states that are no `WAIT` (R89). -/
def awaitedLevel : SpdState → Option Bool
  | .ackL1 | .ackL2 | .bitFall => some false
  | .ackH | .bitRise => some true
  | .idle | .startLow | .startHigh | .bitDelay | .check => none

/-- A `WAIT` state sees the wrong level at its last tick: the tick of `raise NoResponse` (R12, R126). -/
def State.timesOut (s : State) : Bool :=
  match awaitedLevel s.spd with
  | some level => s.pins.dqIn != level && s.tmr == s.waitLast
  | none => false

/-- The tick a poll ends: "`spd == CHECK`, or a `WAIT` state's timeout tick" (R217). -/
def State.pollEnds (s : State) : Bool :=
  s.spd == .check || s.timesOut

/-- `oor(q)`: the stored value is below the low or above the high threshold, unsigned (R190). -/
def State.oor (s : State) (q : Quantity) : Bool :=
  decide ((s.reading q).toNat < (s.threshold q .low).toNat) || decide ((s.threshold q .high).toNat < (s.reading q).toNat)

/-- The flags ENTER clears for a `PEND4` word: UP and DOWN if both are set, MODE if it is set; never OK (R161). -/
def enterClears (p : Buttons) : Buttons :=
  pendWord false (p.getLsbD 2) (p.getLsbD 1 && p.getLsbD 0) (p.getLsbD 1 && p.getLsbD 0)

/-- A trigger of ENTER is present: `ud | m` (R161). -/
def entryTrigger (p : Buttons) : Bool :=
  (p.getLsbD 0 && p.getLsbD 1) || p.getLsbD 2

end Sys2Proof.Machine
end

