-- ==== Sys2Proof/Machine/Ops.lean ====
section
/-! DEFINITION. The operations the meanings share: state transfer, the two timed state kinds (00_scope.md R11, R12), the poll's
start, sample, end and return (R111, R122, R126, R217, R248), consuming a flag (R142, R143), the evaluator's NEXT (R192), and
what every tick does beside the operation of its state (R222, R270). -/

namespace Sys2Proof.Machine

/-! ### Transfer and time -/

/-- `seq <- q`; "Every transition of `seq` or `spd` also does `tmr <- 0`" (R12). -/
def State.goSeq (s : State) (q : SeqState) : State :=
  { s with seq := q, tmr := 0 }

/-- `spd <- p; tmr <- 0` (R12). -/
def State.goSpd (s : State) (p : SpdState) : State :=
  { s with spd := p, tmr := 0 }

/-- `tmr + 1` in 20 bits; the one sum that does not fit is a free value (R11 has no wrap; log entry 5). -/
def nextTmr (t : Ticks) : Ticks :=
  if t = BitVec.allOnes 20 then Config.tmrPastEnd else t + 1

/-- `tmr <- tmr + 1`. -/
def State.countTick (s : State) : State :=
  { s with tmr := nextTmr s.tmr }

/-- `DWELL(N)`: at `tmr == N - 1` the exit, else `tmr <- tmr + 1` (R12). -/
def State.dwell (s : State) (n : Nat) (leave : State) : State :=
  if s.tmr.toNat = n - 1 then leave else s.countTick

/-! ### Errors: taking and returning -/

/-- What happens at the tick a poll ends, with the outcome's code (R110): `err` takes the code, `spd <- IDLE`, `tmr <- 0`.
For the two errors this is the whole of taking them (R241, R242, R248): "Nothing is saved, no mode changes, no vector is
computed, nothing is masked." -/
def State.endPoll (s : State) (e : PollError) : State :=
  { s with err := e, spd := .idle, tmr := 0 }

/-- The return from a poll to the polling state's fixed successor, at the tick the poll ends (R217, R248 (3)): `s` is the
state before the tick, `d` what the decoder's rule made of it. -/
def State.pollReturn (s d : State) (succ : SeqState) : State :=
  if s.pollEnds then d.goSeq succ else d

/-- `WAIT(L)`: the level wins over the timeout; at `tmr == WAIT_TIMEOUT_TICKS - 1` without it `raise NoResponse` (R12,
R126). -/
def State.await (s : State) (level : Bool) (leave : State) : State :=
  if s.pins.dqIn = level then leave
  else if s.tmr = s.waitLast then s.endPoll .noResponse
  else s.countTick

/-! ### The poll -/

/-- A transition into a polling state, with POLL.START at the same tick (R111, R217). -/
def State.startPoll (s : State) (q : SeqState) : State :=
  { s with seq := q, spd := .startLow, tmr := 0, frame := 0, bitcnt := 0 }

/-- `bitcnt + 1` in 6 bits; free where it does not fit (R189 item 5; log entry 5). -/
def nextBitcnt (n : BitVec 6) : BitVec 6 :=
  if n = BitVec.allOnes 6 then Config.bitcntPastEnd else n + 1

/-- `{frame[38:0], bit}` (R122). -/
def shiftIn (f : Frame) (bit : Bool) : Frame :=
  f.extractLsb' 0 39 ++ BitVec.ofBool bit

/-- SAMPLE: `frame <- {frame[38:0], dq_in}; bitcnt <- bitcnt + 1` (R122). -/
def State.sample (s : State) : State :=
  { s with frame := shiftIn s.frame s.pins.dqIn, bitcnt := nextBitcnt s.bitcnt }

/-! ### Flags -/

/-- The sequencer's `clr` bits of a tick, applied to `pend`; the tick's edges are joined in by `notify`, so that set wins
over clear (R142). -/
def State.clearPend (s : State) (clr : Buttons) : State :=
  { s with pend := s.pend &&& ~~~clr }

/-- CONSUME's first step at a `C_CHK_*` state: test one flag, clear it if set (R143, R165 to R168). -/
def State.testFlag (s : State) (b : Button) (found notFound : SeqState) : State :=
  if s.pending b then (s.clearPend (buttonMask b)).goSeq found else s.goSeq notFound

/-- ENTER on a `PEND4` word that holds a trigger (R161). -/
def State.enter (s : State) (p : Buttons) : State :=
  (s.clearPend (enterClears p)).goSeq .sEntrySettle

/-! ### The evaluator -/

/-- `alarm[q] <- a` (R32). -/
def State.setAlarm (s : State) (q : Quantity) (a : AlarmState) : State :=
  match q with
  | .temperature => { s with alarmT := a }
  | .humidity => { s with alarmH := a }

/-- `NEXT` (R192). -/
def State.nextQuantity (s : State) : State :=
  match s.curQ with
  | .temperature => { s with curQ := .humidity, seq := .eGate, tmr := 0 }
  | .humidity => { s with curQ := .temperature, seq := .sGap, tmr := 0 }

/-- A two-bit count plus one; free where it does not fit (R189 item 5; log entry 5). -/
def nextCount (n : BitVec 2) : BitVec 2 :=
  if n = BitVec.allOnes 2 then Config.countPastEnd else n + 1

/-! ### What every tick does -/

/-- NOTIFY and the flag update, steps (1) and (4) of R222: `btn_prev <- btn` and
`pend <- edge | (pend & ~clr)` (R141, R142). `s` is the state before the tick, `t` what the operation made of it, its
`pend` already `pend & ~clr`. -/
def State.notify (s t : State) : State :=
  { t with pend := s.edges ||| t.pend, btnPrev := s.pins.btn }

/-- The levels at the tick after this one: the next of the written trace, or, when it has run out, free levels (R20). -/
def State.nextPins (s : State) : Inputs :=
  match s.stim with
  | i :: _ => i
  | [] => ⟨Config.envRst (s.tick + 1), Config.envDqIn (s.tick + 1), Config.envBtn (s.tick + 1)⟩

/-- Time passes: the input ports take their next levels. -/
def State.passTime (s t : State) : State :=
  { t with pins := s.nextPins, stim := s.stim.tail, tick := s.tick + 1 }

/-- "every register takes its reset value … and no other rule applies" (R270); the instance's parameters stay (R272). -/
def State.resetRegisters (s : State) : State :=
  { State.reset with
    waitLast := s.waitLast, loopGapLast := s.loopGapLast, pins := s.pins, stim := s.stim, tick := s.tick }

/-- Two rules write one register at one tick: the value if they agree, else a free one (log entry 6). -/
def twoWriters {α : Type} [DecidableEq α] (free : α → α → α) (a b : α) : α :=
  if a = b then a else free a b

/-- A tick with the decoder running outside a polling state, which no run reaches (R217): R222 still applies both the
decoder's rule (its result `d`) and the sequencer's (its result `t`) to the state `s` before the tick. Each writes its own
registers. Both write `tmr`; where the sequencer's rule also starts a poll and the decoder's rule makes a transition, both
write `spd`, `frame` and `bitcnt`. -/
def State.joinRules (s d t : State) : State :=
  let started := isPolling t.seq
  let moved := decide (d.spd ≠ s.spd)
  { t with
    hum := d.hum, temp := d.temp, valid := d.valid, err := d.err
    tmr := twoWriters Config.tmrTwoWriters d.tmr t.tmr
    spd := if !started then d.spd else if moved then twoWriters Config.spdTwoWriters d.spd t.spd else t.spd
    frame := if !started then d.frame else if moved then twoWriters Config.frameTwoWriters d.frame t.frame else t.frame
    bitcnt :=
      if !started then d.bitcnt else if moved then twoWriters Config.bitcntTwoWriters d.bitcnt t.bitcnt else t.bitcnt }

end Sys2Proof.Machine
end

