-- ==== Sys2Proof/Machine/Decoder.lean ====
section
/-! DEFINITION. The Sensor Protocol Decoder's operations (41_sensor_protocol_decoder.md R110 to R126), each as what one tick in
it does to the state; the return of the calling sequencer state is not theirs (45_main_sequencer.md R217). -/

namespace Sys2Proof.Machine

/-- IDLE: nothing (R120). -/
def tickIdle (s : State) : State :=
  s

/-- START_LOW: `DWELL(T_START_LOW)`, then START_HIGH (R112). -/
def tickStartLow (s : State) : State :=
  s.dwell tStartLow (s.goSpd .startHigh)

/-- START_HIGH: `DWELL(T_START_HIGH)`, then ACK_L1 (R113). -/
def tickStartHigh (s : State) : State :=
  s.dwell tStartHigh (s.goSpd .ackL1)

/-- ACK_L1: `WAIT(0)` (R114). -/
def tickAckL1 (s : State) : State :=
  s.await false (s.goSpd .ackH)

/-- ACK_H: `WAIT(1)` (R115). -/
def tickAckH (s : State) : State :=
  s.await true (s.goSpd .ackL2)

/-- ACK_L2: `WAIT(0)` (R116). -/
def tickAckL2 (s : State) : State :=
  s.await false (s.goSpd .bitRise)

/-- BIT_RISE: `WAIT(1)` (R117). -/
def tickBitRise (s : State) : State :=
  s.await true (s.goSpd .bitDelay)

/-- BIT_DELAY: `DWELL(T_SAMPLE - 1)`, SAMPLE at its last tick (R118, R122). -/
def tickBitDelay (s : State) : State :=
  s.dwell (tSample - 1) (s.sample.goSpd .bitFall)

/-- BIT_FALL: `WAIT(0)`, then CHECK after the 40th bit, else BIT_RISE (R119). -/
def tickBitFall (s : State) : State :=
  s.await false (s.goSpd (if s.bitcnt.toNat = frameBits then .check else .bitRise))

/-- CHECK.OK: the reading takes `b[0]` and `b[2]`, `err <- 0`, the poll ends (R123, R124). -/
def tickCheckOk (b0 b2 : Byte) (s : State) : State :=
  { s.endPoll .none with hum := b0, temp := b2, valid := true }

/-- CHECK.BAD: `raise ChecksumMismatch`; the reading stays (R125, R242). -/
def tickCheckBad (s : State) : State :=
  s.endPoll .checksumMismatch

/-- CHECK: one tick; CHECK.OK if the sum agrees, else CHECK.BAD (R123). -/
def tickCheck (s : State) : State :=
  if frameGood s.frame then tickCheckOk (frameByte s.frame 0) (frameByte s.frame 2) s else tickCheckBad s

/-- The rule of the current `spd` state (R222 (2)). -/
def State.decoderTick (s : State) : State :=
  match s.spd with
  | .idle => tickIdle s
  | .startLow => tickStartLow s
  | .startHigh => tickStartHigh s
  | .ackL1 => tickAckL1 s
  | .ackH => tickAckH s
  | .ackL2 => tickAckL2 s
  | .bitRise => tickBitRise s
  | .bitDelay => tickBitDelay s
  | .bitFall => tickBitFall s
  | .check => tickCheck s

/-! ### The meanings -/

/-- IDLE (R120). -/
def execIdle (s : State) : Host.Outcome State Fault Refusal :=
  .next (tickIdle s)

/-- START_LOW (R112). -/
def execStartLow (s : State) : Host.Outcome State Fault Refusal :=
  .next (tickStartLow s)

/-- START_HIGH (R113). -/
def execStartHigh (s : State) : Host.Outcome State Fault Refusal :=
  .next (tickStartHigh s)

/-- ACK_L1 (R114). -/
def execAckL1 (s : State) : Host.Outcome State Fault Refusal :=
  .next (tickAckL1 s)

/-- ACK_H (R115). -/
def execAckH (s : State) : Host.Outcome State Fault Refusal :=
  .next (tickAckH s)

/-- ACK_L2 (R116). -/
def execAckL2 (s : State) : Host.Outcome State Fault Refusal :=
  .next (tickAckL2 s)

/-- BIT_RISE (R117). -/
def execBitRise (s : State) : Host.Outcome State Fault Refusal :=
  .next (tickBitRise s)

/-- BIT_DELAY with SAMPLE (R118, R122). -/
def execBitDelay (s : State) : Host.Outcome State Fault Refusal :=
  .next (tickBitDelay s)

/-- BIT_FALL (R119). -/
def execBitFall (s : State) : Host.Outcome State Fault Refusal :=
  .next (tickBitFall s)

/-- CHECK (R123). -/
def execCheck (s : State) : Host.Outcome State Fault Refusal :=
  .next (tickCheck s)

/-- CHECK.OK on a good frame's bytes `h = b[0]`, `t = b[2]` (R124). -/
def execCheckOk (h t : Byte) (s : State) : Host.Outcome State Fault Refusal :=
  .next (tickCheckOk h t s)

/-- CHECK.BAD (R125). -/
def execCheckBad (s : State) : Host.Outcome State Fault Refusal :=
  .next (tickCheckBad s)

end Sys2Proof.Machine
end

