-- ==== Sys2Proof/Machine/Alarm.lean ====
section
/-! DEFINITION. The Alarm Evaluator's operations (44_alarm_evaluator.md R190 to R200). -/

namespace Sys2Proof.Machine

/-- E_GATE: a valid reading out of range for this quantity starts its confirmation phase, else NEXT (R193). -/
def execEGate (s : State) : Host.Outcome State Fault Refusal :=
  .next
    (if s.valid && s.oor s.curQ then
      ({ s.setAlarm s.curQ .confirming with oorCnt := 0, sampIdx := 0 }).startPoll .aConfPoll
    else s.nextQuantity)

/-- A_CONF_POLL: the decoder's rules run; at the tick the poll ends `seq <- A_CONF_COUNT` (R194). -/
def execAConfPoll (s : State) : Host.Outcome State Fault Refusal :=
  .next (s.pollReturn s.decoderTick .aConfCount)

/-- A_CONF_COUNT: judge the stored reading, count the sample; after the third decide (R195). -/
def execAConfCount (s : State) : Host.Outcome State Fault Refusal :=
  .next
    { s.goSeq (if s.sampIdx.toNat = nConf - 1 then .aConfDecide else .aConfGap) with
      oorCnt := if s.oor s.curQ then nextCount s.oorCnt else s.oorCnt
      sampIdx := nextCount s.sampIdx }

/-- A_CONF_GAP: `DWELL(T_CONF_GAP)`, then the next sample's poll (R196). -/
def execAConfGap (s : State) : Host.Outcome State Fault Refusal :=
  .next (s.dwell tConfGap (s.startPoll .aConfPoll))

/-- A_CONF_DECIDE: three of three start the sustained phase, fewer return to Normal (R197, R205). -/
def execAConfDecide (s : State) : Host.Outcome State Fault Refusal :=
  .next
    (if s.oorCnt.toNat = nConf then
      ({ s.setAlarm s.curQ .sustained with ledNormal := false }).startPoll .aSustPoll
    else (s.setAlarm s.curQ .normal).nextQuantity)

/-- A_SUST_POLL: the decoder's rules run; at the tick the poll ends `seq <- A_SUST_CHK` (R198). -/
def execASustPoll (s : State) : Host.Outcome State Fault Refusal :=
  .next (s.pollReturn s.decoderTick .aSustChk)

/-- A_SUST_CHK: still out of range toggles the indicator, back in range ends the alarm (R199). -/
def execASustChk (s : State) : Host.Outcome State Fault Refusal :=
  .next
    (if s.oor s.curQ then { s.goSeq .aSustGap with ledAlarm := !s.ledAlarm }
    else ({ s.setAlarm s.curQ .normal with ledAlarm := false, ledNormal := true }).nextQuantity)

/-- A_SUST_GAP: `DWELL(T_SUST_PERIOD)`, then the next poll (R200). -/
def execASustGap (s : State) : Host.Outcome State Fault Refusal :=
  .next (s.dwell tSustPeriod (s.startPoll .aSustPoll))

end Sys2Proof.Machine
end

