-- ==== Sys2Proof/Machine/Sequencer.lean ====
section
/-! DEFINITION. The main sequencer's own operations (45_main_sequencer.md R215 to R219). -/

namespace Sys2Proof.Machine

/-- S_GAP: `DWELL(LOOP_GAP_TICKS)`, then the main loop's poll (R216). -/
def execSGap (s : State) : Host.Outcome State Fault Refusal :=
  .next (s.dwell s.loopGapTicks (s.startPoll .sPoll))

/-- S_POLL: the decoder's rules run; at the tick the poll ends `seq <- S_SHOW` (R218). -/
def execSPoll (s : State) : Host.Outcome State Fault Refusal :=
  .next (s.pollReturn s.decoderTick .sShow)

/-- S_SHOW: one tick; the display request is an output of the state (R219). -/
def execSShow (s : State) : Host.Outcome State Fault Refusal :=
  .next (s.goSeq .sEntry)

end Sys2Proof.Machine
end

