-- ==== Sys2Proof/Machine/Thresholds.lean ====
section
/-! DEFINITION. The Threshold Configuration State Machine (43_threshold_config_fsm.md R160 to R185): the event operations that
a consumed button event selects, and the sequencer states around them. -/

namespace Sys2Proof.Machine

/-! ### Event operations: the one register each may write -/

/-- SELHI: `sel_b <- 1` (R181). -/
def evtSelhi (s : State) : State :=
  { s with selB := .high }

/-- SELLO: `sel_b <- 0` (R182). -/
def evtSello (s : State) : State :=
  { s with selB := .low }

/-- INC.TH: `if temp_high < 50 then temp_high <- temp_high + 1` (R171). -/
def evtIncTh (s : State) : State :=
  if s.tempHigh.toNat < tempHighCap then { s with tempHigh := BitVec.ofNat 8 (s.tempHigh.toNat + tempStep) } else s

/-- INC.TL: `if temp_low < temp_high then temp_low <- temp_low + 1` (R172). -/
def evtIncTl (s : State) : State :=
  if s.tempLow.toNat < s.tempHigh.toNat then { s with tempLow := BitVec.ofNat 8 (s.tempLow.toNat + tempStep) } else s

/-- INC.HH: `if hum_high + 10 <= 90 then hum_high <- hum_high + 10` (R173). -/
def evtIncHh (s : State) : State :=
  if s.humHigh.toNat + humStep ≤ humCap then { s with humHigh := BitVec.ofNat 8 (s.humHigh.toNat + humStep) } else s

/-- INC.HL: `if hum_low + 10 <= hum_high and hum_low + 10 <= 90 then hum_low <- hum_low + 10` (R174). -/
def evtIncHl (s : State) : State :=
  if s.humLow.toNat + humStep ≤ s.humHigh.toNat ∧ s.humLow.toNat + humStep ≤ humCap then
    { s with humLow := BitVec.ofNat 8 (s.humLow.toNat + humStep) }
  else s

/-- DEC.TH: `if temp_high > temp_low then temp_high <- temp_high - 1` (R175). -/
def evtDecTh (s : State) : State :=
  if s.tempLow.toNat < s.tempHigh.toNat then { s with tempHigh := BitVec.ofNat 8 (s.tempHigh.toNat - tempStep) } else s

/-- DEC.TL: `if temp_low > 0 then temp_low <- temp_low - 1` (R176). -/
def evtDecTl (s : State) : State :=
  if tempFloor < s.tempLow.toNat then { s with tempLow := BitVec.ofNat 8 (s.tempLow.toNat - tempStep) } else s

/-- DEC.HH: `if hum_high >= hum_low + 10 and hum_high >= 20 then hum_high <- hum_high - 10` (R177). -/
def evtDecHh (s : State) : State :=
  if s.humLow.toNat + humStep ≤ s.humHigh.toNat ∧ humFloor + humStep ≤ s.humHigh.toNat then
    { s with humHigh := BitVec.ofNat 8 (s.humHigh.toNat - humStep) }
  else s

/-- DEC.HL: `if hum_low >= 20 then hum_low <- hum_low - 10` (R178). -/
def evtDecHl (s : State) : State :=
  if humFloor + humStep ≤ s.humLow.toNat then { s with humLow := BitVec.ofNat 8 (s.humLow.toNat - humStep) } else s

/-- TOGGLE: `sel_q <- ~sel_q` (R169). -/
def evtToggle (s : State) : State :=
  { s with selQ := Quantity.ofCode (!s.selQ.code) }

/-- OKTAP: `seq <- C_DRAW`, no register changes (R183). -/
def evtOktap (s : State) : State :=
  s.goSeq .cDraw

/-- EXIT: `seq <- E_GATE`, no register changes (R183). -/
def evtExit (s : State) : State :=
  s.goSeq .eGate

/-- The operation of an UP event: SELHI for a tap, `INC.<sel>` for held (R170). -/
def upEvent (s : State) : State :=
  match s.held .up, s.selQ, s.selB with
  | false, _, _ => evtSelhi s
  | true, .temperature, .high => evtIncTh s
  | true, .temperature, .low => evtIncTl s
  | true, .humidity, .high => evtIncHh s
  | true, .humidity, .low => evtIncHl s

/-- The operation of a DOWN event: SELLO for a tap, `DEC.<sel>` for held (R179). -/
def downEvent (s : State) : State :=
  match s.held .down, s.selQ, s.selB with
  | false, _, _ => evtSello s
  | true, .temperature, .high => evtDecTh s
  | true, .temperature, .low => evtDecTl s
  | true, .humidity, .high => evtDecHh s
  | true, .humidity, .low => evtDecHl s

/-- The operation of an OK event: EXIT for held, OKTAP for a tap (R183). -/
def okEvent (s : State) : State :=
  if s.held .ok then evtExit s else evtOktap s

/-! ### The meanings: entry -/

/-- S_ENTRY: ENTER if a trigger is pending, else on to `E_GATE` (R161). -/
def execSEntry (s : State) : Host.Outcome State Fault Refusal :=
  .next (if entryTrigger s.pend then s.enter s.pend else s.goSeq .eGate)

/-- ENTER selected by `x1xx` of `{OK, MODE, DOWN, UP}` (R86, R161). -/
def execEnterMode (ok down up : Bool) (s : State) : Host.Outcome State Fault Refusal :=
  .next (s.enter (pendWord ok true down up))

/-- ENTER selected by `xx11` of `{OK, MODE, DOWN, UP}` (R86, R161). -/
def execEnterUpDown (ok mode : Bool) (s : State) : Host.Outcome State Fault Refusal :=
  .next (s.enter (pendWord ok mode true true))

/-- S_ENTRY_SETTLE: `DWELL(T_SETTLE)`, then the selection is Temperature, High and `C_DRAW` (R162). -/
def execSEntrySettle (s : State) : Host.Outcome State Fault Refusal :=
  .next (s.dwell tSettle { s.goSeq .cDraw with selQ := .temperature, selB := .high })

/-! ### The meanings: the iteration -/

/-- C_DRAW: one tick; the display request is an output of the state (R163). -/
def execCDraw (s : State) : Host.Outcome State Fault Refusal :=
  .next (s.goSeq .cDelay)

/-- C_DELAY: `DWELL(T_CFG_REFRESH)` (R164). -/
def execCDelay (s : State) : Host.Outcome State Fault Refusal :=
  .next (s.dwell tCfgRefresh (s.goSeq .cChkMode))

/-- C_CHK_MODE (R165). -/
def execCChkMode (s : State) : Host.Outcome State Fault Refusal :=
  .next (s.testFlag .mode .cSetMode .cChkUp)

/-- C_CHK_UP (R166). -/
def execCChkUp (s : State) : Host.Outcome State Fault Refusal :=
  .next (s.testFlag .up .cSetUp .cChkDown)

/-- C_CHK_DOWN (R167). -/
def execCChkDown (s : State) : Host.Outcome State Fault Refusal :=
  .next (s.testFlag .down .cSetDown .cChkOk)

/-- C_CHK_OK (R168). -/
def execCChkOk (s : State) : Host.Outcome State Fault Refusal :=
  .next (s.testFlag .ok .cSetOk .cDraw)

/-- C_SET_MODE: `DWELL(T_SETTLE)`, TOGGLE at its last tick whatever the button's level (R169). -/
def execCSetMode (s : State) : Host.Outcome State Fault Refusal :=
  .next (s.dwell tSettle ((evtToggle s).goSeq .cChkUp))

/-- C_SET_UP: `DWELL(T_SETTLE)`, the UP event at its last tick (R170). -/
def execCSetUp (s : State) : Host.Outcome State Fault Refusal :=
  .next (s.dwell tSettle ((upEvent s).goSeq .cChkDown))

/-- C_SET_DOWN: `DWELL(T_SETTLE)`, the DOWN event at its last tick (R179). -/
def execCSetDown (s : State) : Host.Outcome State Fault Refusal :=
  .next (s.dwell tSettle ((downEvent s).goSeq .cChkOk))

/-- C_SET_OK: `DWELL(T_SETTLE)`, EXIT or OKTAP at its last tick (R183). -/
def execCSetOk (s : State) : Host.Outcome State Fault Refusal :=
  .next (s.dwell tSettle (okEvent s))

/-! ### The meanings: the event operations -/

/-- SELHI (R181). -/
def execSelhi (s : State) : Host.Outcome State Fault Refusal :=
  .next (evtSelhi s)

/-- INC.TH (R171). -/
def execIncTh (s : State) : Host.Outcome State Fault Refusal :=
  .next (evtIncTh s)

/-- INC.TL (R172). -/
def execIncTl (s : State) : Host.Outcome State Fault Refusal :=
  .next (evtIncTl s)

/-- INC.HH (R173). -/
def execIncHh (s : State) : Host.Outcome State Fault Refusal :=
  .next (evtIncHh s)

/-- INC.HL (R174). -/
def execIncHl (s : State) : Host.Outcome State Fault Refusal :=
  .next (evtIncHl s)

/-- SELLO (R182). -/
def execSello (s : State) : Host.Outcome State Fault Refusal :=
  .next (evtSello s)

/-- DEC.TH (R175). -/
def execDecTh (s : State) : Host.Outcome State Fault Refusal :=
  .next (evtDecTh s)

/-- DEC.TL (R176). -/
def execDecTl (s : State) : Host.Outcome State Fault Refusal :=
  .next (evtDecTl s)

/-- DEC.HH (R177). -/
def execDecHh (s : State) : Host.Outcome State Fault Refusal :=
  .next (evtDecHh s)

/-- DEC.HL (R178). -/
def execDecHl (s : State) : Host.Outcome State Fault Refusal :=
  .next (evtDecHl s)

/-- TOGGLE (R169). -/
def execToggle (s : State) : Host.Outcome State Fault Refusal :=
  .next (evtToggle s)

/-- OKTAP (R183). -/
def execOktap (s : State) : Host.Outcome State Fault Refusal :=
  .next (evtOktap s)

/-- EXIT (R183). -/
def execExit (s : State) : Host.Outcome State Fault Refusal :=
  .next (evtExit s)

end Sys2Proof.Machine
end

