-- ==== Sys2Proof/Machine/Dispatch.lean ====
section
/-! DEFINITION. One meaning per operation. -/

namespace Sys2Proof.Machine

/-- What an operation does to the state at one tick in it, before the tick's NOTIFY (45_main_sequencer.md R222). -/
def exec (i : Instr) (s : State) : Host.Outcome State Fault Refusal :=
  match i with
  | .idle => Sys2Proof.Machine.execIdle s
  | .startLow => Sys2Proof.Machine.execStartLow s
  | .startHigh => Sys2Proof.Machine.execStartHigh s
  | .ackL1 => Sys2Proof.Machine.execAckL1 s
  | .ackH => Sys2Proof.Machine.execAckH s
  | .ackL2 => Sys2Proof.Machine.execAckL2 s
  | .bitRise => Sys2Proof.Machine.execBitRise s
  | .bitDelay => Sys2Proof.Machine.execBitDelay s
  | .bitFall => Sys2Proof.Machine.execBitFall s
  | .check => Sys2Proof.Machine.execCheck s
  | .checkOk h _ t _ _ => Sys2Proof.Machine.execCheckOk h t s
  | .checkBad _ _ _ _ _ => Sys2Proof.Machine.execCheckBad s
  | .sGap => Sys2Proof.Machine.execSGap s
  | .sPoll => Sys2Proof.Machine.execSPoll s
  | .sShow => Sys2Proof.Machine.execSShow s
  | .sEntry => Sys2Proof.Machine.execSEntry s
  | .sEntrySettle => Sys2Proof.Machine.execSEntrySettle s
  | .cDraw => Sys2Proof.Machine.execCDraw s
  | .cDelay => Sys2Proof.Machine.execCDelay s
  | .cChkMode => Sys2Proof.Machine.execCChkMode s
  | .cSetMode => Sys2Proof.Machine.execCSetMode s
  | .cChkUp => Sys2Proof.Machine.execCChkUp s
  | .cSetUp => Sys2Proof.Machine.execCSetUp s
  | .cChkDown => Sys2Proof.Machine.execCChkDown s
  | .cSetDown => Sys2Proof.Machine.execCSetDown s
  | .cChkOk => Sys2Proof.Machine.execCChkOk s
  | .cSetOk => Sys2Proof.Machine.execCSetOk s
  | .eGate => Sys2Proof.Machine.execEGate s
  | .aConfPoll => Sys2Proof.Machine.execAConfPoll s
  | .aConfCount => Sys2Proof.Machine.execAConfCount s
  | .aConfGap => Sys2Proof.Machine.execAConfGap s
  | .aConfDecide => Sys2Proof.Machine.execAConfDecide s
  | .aSustPoll => Sys2Proof.Machine.execASustPoll s
  | .aSustChk => Sys2Proof.Machine.execASustChk s
  | .aSustGap => Sys2Proof.Machine.execASustGap s
  | .selhi _ _ => Sys2Proof.Machine.execSelhi s
  | .incTh => Sys2Proof.Machine.execIncTh s
  | .incTl => Sys2Proof.Machine.execIncTl s
  | .incHh => Sys2Proof.Machine.execIncHh s
  | .incHl => Sys2Proof.Machine.execIncHl s
  | .sello _ _ => Sys2Proof.Machine.execSello s
  | .decTh => Sys2Proof.Machine.execDecTh s
  | .decTl => Sys2Proof.Machine.execDecTl s
  | .decHh => Sys2Proof.Machine.execDecHh s
  | .decHl => Sys2Proof.Machine.execDecHl s
  | .toggle _ _ _ => Sys2Proof.Machine.execToggle s
  | .oktap _ _ => Sys2Proof.Machine.execOktap s
  | .exit _ _ => Sys2Proof.Machine.execExit s
  | .enterMode ok down up => Sys2Proof.Machine.execEnterMode ok down up s
  | .enterUpDown ok mode => Sys2Proof.Machine.execEnterUpDown ok mode s

end Sys2Proof.Machine
end

