-- ==== Sys2Proof/Machine/Fetch.lean ====
section
/-! DEFINITION. What one tick runs (45_main_sequencer.md R222), and how a given word is put where the next tick decodes it. The
block fetches from no store (20_memory.md R71): the code in `seq` names the operation (R25). -/

namespace Sys2Proof.Machine

/-- The writes of a tick from the sequencer's operation `t`: in every state a run reaches, `t` itself; with the decoder
running outside a polling state, joined with the decoder's rule (R222, R286; log entry 6). -/
def State.withDecoder (s t : State) : State :=
  if s.spd = .idle ∨ isPolling s.seq = true then t else s.joinRules s.decoderTick t

/-- One tick once its operation is decoded: run it, join the decoder's rule where R222 asks for it, NOTIFY, pass time. -/
def runTick (i : Instr) (s : State) : Host.Outcome State Fault Refusal :=
  match exec i s with
  | .next t => .next (s.passTime (s.notify (s.withDecoder t)))
  | .fault f => .fault f
  | .refused r => .refused r

/-- A tick at which `rst == 1` (R270). -/
def resetTick (s : State) : State :=
  s.passTime s.resetRegisters

/-- `seq` placed at a state's first tick, with the poll a polling state runs started as every transition into it does
(R217), else with the decoder idle, and `rst` low. -/
def placeSeq (s : State) (q : SeqState) : State :=
  let s := { s with pins := { s.pins with rst := false } }
  if isPolling q then s.startPoll q else { s.goSeq q with spd := .idle }

/-- The decoder placed at the first tick of a state inside the main loop's poll; IDLE is placed outside a poll. -/
def placeSpd (s : State) (p : SpdState) : State :=
  if p = .idle then placeSeq s .sGap else { placeSeq s .sPoll with spd := p }

/-- A button event placed at the last tick of its `C_SET_*` state, with the word's level on the button and the word's
selection in the registers (R87). -/
def placeEvent (s : State) (b : Button) (held : Bool) (q : Quantity) (bnd : Bound) : State :=
  let seq : SeqState :=
    match b with
    | .up => .cSetUp
    | .down => .cSetDown
    | .mode => .cSetMode
    | .ok => .cSetOk
  let level : Buttons := if held then buttonMask b else 0
  let s := placeSeq s seq
  { s with
    tmr := BitVec.ofNat 20 (tSettle - 1), selQ := q, selB := bnd
    pins := { s.pins with btn := (s.pins.btn &&& ~~~buttonMask b) ||| level } }

/-- The button of an `EVT5` id (R87). -/
def eventButton (w : BitVec 5) : Button :=
  match w.getLsbD 4, w.getLsbD 3 with
  | false, false => .up
  | false, true => .down
  | true, false => .mode
  | true, true => .ok

/-- `s` with a word put where the next tick decodes it: a `seq` code in `seq`; a `spd` code in `spd` inside a poll; a frame
in `frame` at CHECK; an event word as the inputs of its decision; the pending flags at `S_ENTRY`. A reserved code is no
value of its register (R95) and leaves `s` as it is. -/
def placeWord (s : State) : CodeWord → State
  | .seq5 w =>
    match SeqState.ofCode w with
    | some q => placeSeq s q
    | none => s
  | .spd4 w =>
    match SpdState.ofCode w with
    | some p => placeSpd s p
    | none => s
  | .frame40 f => { placeSpd s .check with frame := f, bitcnt := BitVec.ofNat 6 frameBits }
  | .evt5 w =>
    placeEvent s (eventButton w) (w.getLsbD 2) (Quantity.ofCode (w.getLsbD 1)) (Bound.ofCode (w.getLsbD 0))
  | .pend4 w => { placeSeq s .sEntry with pend := w }

/-- `s` with a bare number of `nbits` bits put where the next tick decodes it, in the format `readTableWord` reads it in. -/
def placeTableWord (s : State) (nbits w : Nat) : State :=
  match readTableWord nbits w with
  | .ok cw => placeWord s cw
  | .error _ => s

end Sys2Proof.Machine
end

