-- ==== Sys2Proof/Machine/Outputs.lean ====
section
/-! DEFINITION. The output ports as functions of the state alone (10_state.md R40 to R42; 30_encoding.md R92). -/

namespace Sys2Proof.Machine

/-- Which screen a render request asks for (R92). Code 3 is reserved and unrepresentable (R95, U2). -/
inductive DispKind
  | reading
  | config
  | alarm
  deriving DecidableEq, Repr

/-- `disp_kind` on its port (R92). -/
def DispKind.code : DispKind → BitVec 2
  | .reading => 0
  | .config => 1
  | .alarm => 2

/-- The `disp_*` group (R40, R92). -/
structure Display where
  stb : Bool
  kind : DispKind
  q : Quantity
  b : Bound
  v0 : Byte
  v1 : Byte
  deriving DecidableEq, Repr

/-- No request: every field 0 (R92 "anything else"). -/
def Display.idle : Display :=
  ⟨false, .reading, .temperature, .low, 0, 0⟩

/-- `DISP20`: the request as one word `{disp_kind, disp_q, disp_b, disp_v0, disp_v1}` (R92). -/
def Display.word (d : Display) : BitVec 20 :=
  d.kind.code ++ BitVec.ofBool d.q.code ++ BitVec.ofBool d.b.code ++ d.v0 ++ d.v1

/-- The render request of a state, the table of R92. -/
def State.display (s : State) : Display :=
  match s.seq with
  | .sShow => if s.err = .none then ⟨true, .reading, .temperature, .low, s.hum, s.temp⟩ else .idle
  | .cDraw => ⟨true, .config, s.selQ, s.selB, s.threshold s.selQ s.selB, 0⟩
  | .aSustChk => if s.oor s.curQ then ⟨true, .alarm, s.curQ, .low, s.reading s.curQ, 0⟩ else .idle
  | _ => .idle

/-- `dq_oe`: the block drives the pin in the two start states only (R41). -/
def State.dqOe (s : State) : Bool :=
  s.spd == .startLow || s.spd == .startHigh

/-- `dq_out`: high in START_HIGH only (R41). -/
def State.dqOut (s : State) : Bool :=
  s.spd == .startHigh

/-- `cfg_active`: 1 iff `5 <= seq <= 14` (R42). -/
def State.cfgActive (s : State) : Bool :=
  isConfiguring s.seq

/-- Every output port (R40, R42), under the port's name. -/
structure Outputs where
  dqOut : Bool
  dqOe : Bool
  ledAlarm : Bool
  ledNormal : Bool
  disp : Display
  humO : Byte
  tempO : Byte
  validO : Bool
  errO : BitVec 2
  tempHighO : Byte
  tempLowO : Byte
  humHighO : Byte
  humLowO : Byte
  selQO : Bool
  selBO : Bool
  cfgActive : Bool
  alarmTO : BitVec 2
  alarmHO : BitVec 2
  pendO : BitVec 4
  seqO : BitVec 5
  spdO : BitVec 4
  deriving DecidableEq, Repr

/-- The levels at the output ports (R40 to R42): wires from the registers but for the pin, the display request and
`cfg_active`. -/
def State.outputs (s : State) : Outputs where
  dqOut := s.dqOut
  dqOe := s.dqOe
  ledAlarm := s.ledAlarm
  ledNormal := s.ledNormal
  disp := s.display
  humO := s.hum
  tempO := s.temp
  validO := s.valid
  errO := s.err.code
  tempHighO := s.tempHigh
  tempLowO := s.tempLow
  humHighO := s.humHigh
  humLowO := s.humLow
  selQO := s.selQ.code
  selBO := s.selB.code
  cfgActive := s.cfgActive
  alarmTO := s.alarmT.code
  alarmHO := s.alarmH.code
  pendO := s.pend
  seqO := s.seq.code
  spdO := s.spd.code

end Sys2Proof.Machine
end

