-- ==== Sys2Proof/Machine/Step.lean ====
section
/-! DEFINITION. One step is one tick (10_state.md R20). -/

namespace Sys2Proof.Machine

/-- One tick: reset first (R247 item 1, R270), else the operation that the code in `seq` names (R222). -/
def step (s : State) : Host.Outcome State Fault Refusal :=
  if s.pins.rst then .next (resetTick s)
  else
    match decode s.fetchWord with
    | .ok i => runTick i s
    | .error e => .refused (.reservedCode e)

/-- `s` with the word stored where the next tick decodes it. -/
def State.withFetchWord (s : State) (nbits w : Nat) : State :=
  placeTableWord s nbits w

end Sys2Proof.Machine
end

