-- ==== Sys2Proof/Safety.lean ====
section
/-! DEFINITION. The terms the claims use: runs and the levels they read, how a timed state behaves at one tick, and the
invariant of the states a run reaches (10_state.md R23, R26, R28, R32; 41_sensor_protocol_decoder.md R122;
43_threshold_config_fsm.md R180; 60_exceptions.md R253). A safe run is one whose every state meets `Inv`. -/

namespace Sys2Proof.Safety

open Sys2Proof.Machine

/-! ### Runs -/

/-- `k` ticks from `s`, stopping at the first fault or refusal. -/
def runTicks : Nat → State → Host.Outcome State Fault Refusal
  | 0, s => .next s
  | k + 1, s =>
    match step s with
    | .next t => runTicks k t
    | .fault f => .fault f
    | .refused r => .refused r

/-- The levels at the input ports `k` ticks after the coming one, in the trace `s` carries (R10's `X[t]` of an input). -/
def levels (s : State) : Nat → Inputs
  | 0 => s.pins
  | k + 1 =>
    (s.stim[k]?).getD
      ⟨Config.envRst (s.tick + (k + 1)), Config.envDqIn (s.tick + (k + 1)), Config.envBtn (s.tick + (k + 1))⟩

/-- `rst` is low at the next `n` ticks. -/
def NoReset (n : Nat) (s : State) : Prop :=
  ∀ k, k < n → (levels s k).rst = false

/-! ### One tick of a timed state (R12) -/

/-- The operation only counts the timer on: nothing but `tmr` changes, and `tmr` grows by one wherever 20 bits hold it. -/
def CountsOn (s : State) (o : Host.Outcome State Fault Refusal) : Prop :=
  ∃ v : Ticks, o = .next { s with tmr := v } ∧ (s.tmr.toNat + 1 < 2 ^ 20 → v.toNat = s.tmr.toNat + 1)

/-- `DWELL(n)` with the state `leave` after its last tick. -/
def DwellsFor (n : Nat) (s : State) (o : Host.Outcome State Fault Refusal) (leave : State) : Prop :=
  (s.tmr.toNat = n - 1 → o = .next leave) ∧ (s.tmr.toNat ≠ n - 1 → CountsOn s o)

/-- `WAIT(level)` with the state `leave` after the tick that sees the level; the level wins over the timeout, and the
timeout is `raise NoResponse`. -/
def AwaitsLevel (level : Bool) (s : State) (o : Host.Outcome State Fault Refusal) (leave : State) : Prop :=
  (s.pins.dqIn = level → o = .next leave) ∧
  (s.pins.dqIn ≠ level → s.tmr.toNat = s.waitTimeoutTicks - 1 →
    o = .next { s with err := .noResponse, spd := .idle, tmr := 0 }) ∧
  (s.pins.dqIn ≠ level → s.tmr.toNat ≠ s.waitTimeoutTicks - 1 → CountsOn s o)

/-! ### The invariant of the states a run reaches -/

/-- "`spd != IDLE` iff `seq` is a polling state" (R26, R217). -/
def PollConsistent (s : State) : Prop :=
  s.spd ≠ .idle ↔ isPolling s.seq = true

/-- The threshold invariant (R23, R180). -/
def ThresholdsInBounds (s : State) : Prop :=
  s.tempLow.toNat ≤ s.tempHigh.toNat ∧ s.tempHigh.toNat ≤ 50 ∧
  10 ≤ s.humLow.toNat ∧ s.humLow.toNat ≤ s.humHigh.toNat ∧ s.humHigh.toNat ≤ 90 ∧
  s.humLow.toNat % 10 = 0 ∧ s.humHigh.toNat % 10 = 0

/-- The other quantity. -/
def otherQuantity : Quantity → Quantity
  | .temperature => .humidity
  | .humidity => .temperature

/-- The alarm state of the quantity under evaluation follows the sequencer's phase, the other quantity's is Normal, and
outside `E_GATE` and the `A_*` states `cur_q` is Temperature (R28, R32, R192). -/
def AlarmsFollowPhase (s : State) : Prop :=
  s.alarm s.curQ = (if isConfirming s.seq then .confirming else if isSustained s.seq then .sustained else .normal) ∧
  s.alarm (otherQuantity s.curQ) = .normal ∧
  (isConfirming s.seq = false → isSustained s.seq = false → s.seq ≠ .eGate → s.curQ = .temperature)

/-- The indicators follow the sequencer's phase: the normal indicator is off exactly in the sustained phase, the alarm
indicator is off outside it (R197, R199). -/
def IndicatorsFollowPhase (s : State) : Prop :=
  s.ledNormal = !isSustained s.seq ∧ (isSustained s.seq = false → s.ledAlarm = false)

/-- An evaluation runs only on a reading that was made (R193, R34). -/
def EvaluatesValidReading (s : State) : Prop :=
  isConfirming s.seq = true ∨ isSustained s.seq = true → s.valid = true

/-- The confirmation counts (R28, R189 item 5, R195). -/
def CountsInRange (s : State) : Prop :=
  s.oorCnt.toNat ≤ s.sampIdx.toNat ∧
  (s.seq = .aConfPoll ∨ s.seq = .aConfCount ∨ s.seq = .aConfGap → s.sampIdx.toNat ≤ 2) ∧
  (s.seq = .aConfDecide → s.sampIdx.toNat = 3)

/-- How many ticks a sequencer state outside a poll may last (R88). -/
def seqTicks (s : State) : Nat :=
  match s.seq with
  | .sGap => s.loopGapTicks
  | .sEntrySettle | .cSetMode | .cSetUp | .cSetDown | .cSetOk => 1000000
  | .cDelay | .aConfGap => 200000
  | .aSustGap => 300000
  | _ => 1

/-- How many ticks a decoder state may last (R89). -/
def spdTicks (s : State) : Nat :=
  match s.spd with
  | .startLow => 20000
  | .startHigh => 20
  | .ackL1 | .ackH | .ackL2 | .bitRise | .bitFall => s.waitTimeoutTicks
  | .bitDelay => 29
  | .idle | .check => 1

/-- The timer never passes the last tick of the current state (R27, R253). -/
def TimerInRange (s : State) : Prop :=
  s.tmr.toNat < (if s.spd = .idle then seqTicks s else spdTicks s)

/-- The bit counter belongs to the decoder's phase, and `frame` holds no more than the bits counted, so that the bit a
SAMPLE shifts out is 0 (R122, R189 item 5). -/
def FrameInRange (s : State) : Prop :=
  s.frame.toNat < 2 ^ s.bitcnt.toNat ∧ s.bitcnt.toNat ≤ 40 ∧
  (match s.spd with
  | .startLow | .startHigh | .ackL1 | .ackH | .ackL2 => s.bitcnt.toNat = 0
  | .bitRise | .bitDelay => s.bitcnt.toNat < 40
  | .bitFall => 1 ≤ s.bitcnt.toNat
  | .check => s.bitcnt.toNat = 40
  | .idle => True)

/-- What every state of a run from reset meets. -/
structure Inv (s : State) : Prop where
  poll : PollConsistent s
  thresholds : ThresholdsInBounds s
  alarms : AlarmsFollowPhase s
  indicators : IndicatorsFollowPhase s
  valid : EvaluatesValidReading s
  counts : CountsInRange s
  timer : TimerInRange s
  frame : FrameInRange s

/-! ### The sensor's answer as a waveform (R97, R128) -/

/-- The durations of an answer, in ticks: `a` high, `b` low, `c` high, then per bit `l` low and `d0` or `d1` high, then `e`
low. -/
structure Shape where
  a : Nat
  b : Nat
  c : Nat
  l : Nat
  d0 : Nat
  d1 : Nat
  e : Nat
  deriving DecidableEq, Repr

/-- The bits of a frame in the order they arrive, bit 39 first (R62). -/
def frameBitList (f : Frame) : List Bool :=
  (List.range 40).map fun k => f.getLsbD (39 - k)

/-- One data bit on the wire: the low gap and the high pulse (R81, R97). -/
def bitWave (sh : Shape) (bit : Bool) : List Bool :=
  List.replicate sh.l false ++ List.replicate (if bit then sh.d1 else sh.d0) true

/-- The levels of `dq_in` from the tick the pin is released (R97). -/
def answerWave (sh : Shape) (f : Frame) : List Bool :=
  List.replicate sh.a true ++ List.replicate sh.b false ++ List.replicate sh.c true ++
    (frameBitList f).flatMap (bitWave sh) ++ List.replicate sh.e false

/-- The conditions under which a poll reads the answer right: every wait is within the timeout, the pulse widths lie on
their sides of the 30-tick boundary, and no low gap is too short to be seen (R121, R128, R129). -/
def ShapeReadable (sh : Shape) (waitTicks : Nat) : Prop :=
  sh.a < waitTicks ∧ 1 ≤ sh.b ∧ sh.b ≤ waitTicks ∧ 1 ≤ sh.c ∧ sh.c ≤ waitTicks ∧ 1 ≤ sh.l ∧ sh.l ≤ waitTicks ∧
  1 ≤ sh.d0 ∧ sh.d0 ≤ 29 ∧ 30 ≤ sh.d1 ∧ sh.d1 ≤ 29 + waitTicks ∧ 31 ≤ sh.l + sh.d0 ∧ 1 ≤ sh.e ∧ 31 ≤ sh.e + sh.d0

/-- The tick, counted from the release, at which CHECK runs (R128). -/
def checkTick (sh : Shape) (f : Frame) : Nat :=
  let n1 := (frameBitList f).count true
  let n0 := (frameBitList f).count false
  let last := sh.a + sh.b + sh.c + (40 * sh.l + n1 * sh.d1 + n0 * sh.d0)
  if f.getLsbD 0 then last + 1 else last - sh.d0 + 31

end Sys2Proof.Safety
end

