-- ==== Sys2Proof/Certificates/Slice0/Obligations.lean ====
section
/-! DEFINITION. The statements about the block, for the provers. Each docstring names the rule of spec/ it formalises. In the
statements about one operation the conclusion is an equation for the whole next state, so everything it does not name is
unchanged; the tick around the operation is `StepRunsTheDecodedOperation` and `PendingFlagsAndEdges`. -/

open Sys2Proof Sys2Proof.Machine Sys2Proof.Safety

/-! ### Encodings -/

/-- Decoding the word of a well-formed operation gives it back, with every operand at every value (30_encoding.md R84 to
R89). -/
def Obligations.DecodeOfEncodeGivesTheOperation : Prop :=
  ∀ i : Instr, i.wf = true → decode (encode i) = .ok i

/-- A word that decodes is the word of the operation it decodes to, and that operation is well-formed: no word has two
readings. -/
def Obligations.EncodeOfDecodeGivesTheWord : Prop :=
  ∀ (w : CodeWord) (i : Instr), decode w = .ok i → encode i = w ∧ i.wf = true

/-- A few words written out from the tables R84, R86 to R89 decode to the operations they stand for. -/
def Obligations.WordsOfTheTablesDecode : Prop :=
  decode (.spd4 0b0111) = .ok .bitDelay ∧
  decode (.seq5 0b10011) = .ok .aConfDecide ∧
  decode (.evt5 0b00101) = .ok .incTh ∧
  decode (.evt5 0b10110) = .ok (.toggle true .humidity .low) ∧
  decode (.evt5 0b11101) = .ok (.exit .temperature .high) ∧
  decode (.pend4 0b0100) = .ok (.enterMode false false false) ∧
  decode (.pend4 0b1011) = .ok (.enterUpDown true false) ∧
  decode (.frame40 0x3C00190055) = .ok (.checkOk 60 0 25 0 85) ∧
  decode (.frame40 0x3C00190056) = .ok (.checkBad 60 0 25 0 86)

/-- The reserved codes of `seq` (23 to 31) and `spd` (10 to 15), and no other, are refused by the decoder: of the two
treatments R95 allows, the model's (U1). -/
def Obligations.ReservedStateCodesAreRefused : Prop :=
  (∀ w : BitVec 5, decode (.seq5 w) = .error (.reservedSeq w) ↔ 23 ≤ w.toNat) ∧
  (∀ w : BitVec 4, decode (.spd4 w) = .error (.reservedSpd w) ↔ 10 ≤ w.toNat)

/-- `PEND4` is `{OK, MODE, DOWN, UP}`: exactly the patterns `x1xx` and `xx11` select ENTER; "a word matching neither selects
nothing" (R86). That `x111` is read as the MODE row's is the model's choice (log entry 9). -/
def Obligations.EntryPatternsOfThePendingFlags : Prop :=
  ∀ w : Buttons,
    (w &&& 0b0100 = 0b0100 → decode (.pend4 w) = .ok (.enterMode (w.getLsbD 3) (w.getLsbD 1) (w.getLsbD 0))) ∧
    (w &&& 0b0100 ≠ 0b0100 → w &&& 0b0011 = 0b0011 →
      decode (.pend4 w) = .ok (.enterUpDown (w.getLsbD 3) (w.getLsbD 2))) ∧
    (w &&& 0b0100 ≠ 0b0100 → w &&& 0b0011 ≠ 0b0011 → decode (.pend4 w) = .error (.noTrigger w))

/-- A frame is read as CHECK.OK iff the sum of its first four bytes, modulo 256, is its fifth, whatever the bytes are (R94,
S1). -/
def Obligations.FrameAcceptedIffTheSumAgrees : Prop :=
  ∀ h f t g c : Byte,
    ((h.toNat + f.toNat + t.toNat + g.toNat) % 256 = c.toNat →
      decode (.frame40 (h ++ f ++ t ++ g ++ c)) = .ok (.checkOk h f t g c)) ∧
    ((h.toNat + f.toNat + t.toNat + g.toNat) % 256 ≠ c.toNat →
      decode (.frame40 (h ++ f ++ t ++ g ++ c)) = .ok (.checkBad h f t g c))

/-! ### One step -/

/-- With `rst` low, a step runs the operation whose code is in `seq`, joins the decoder's rule where it runs outside a poll
(no run reaches such a state; what the model does there is its own choice, log entry 6), then NOTIFY, and time passes (R25, R222). In
every state that meets `PollConsistent` nothing is joined. -/
def Obligations.StepRunsTheDecodedOperation : Prop :=
  ∀ (s t : State) (i : Instr), s.pins.rst = false → decode (.seq5 s.seq.code) = .ok i → exec i s = .next t →
    step s = .next (s.passTime (s.notify (s.withDecoder t))) ∧ (PollConsistent s → s.withDecoder t = t)

/-- The code in `seq` always names an operation, and no step ends in a fault or a refusal: the step function is total
(R286, R95). -/
def Obligations.EveryStepAnswersANextState : Prop :=
  ∀ s : State, (∃ i, decode (.seq5 s.seq.code) = .ok i ∧ ∃ t, exec i s = .next t) ∧ ∃ t, step s = .next t

/-- In the three polling states the operation whose code is in `spd` runs, and at the tick the poll ends the state goes to
its successor S_SHOW, A_CONF_COUNT or A_SUST_CHK (R194, R198, R217, R218). The poll ends at CHECK, or where a wait sees
the wrong level at its last tick. -/
def Obligations.PollingStatesRunTheDecoder : Prop :=
  decode (.seq5 1) = .ok .sPoll ∧ decode (.seq5 16) = .ok .aConfPoll ∧ decode (.seq5 20) = .ok .aSustPoll ∧
  ∀ s : State, ∃ (p : Instr) (d : State),
    decode (.spd4 s.spd.code) = .ok p ∧ exec p s = .next d ∧
    (let ends := s.spd = .check ∨
        ((s.spd = .ackL1 ∨ s.spd = .ackL2 ∨ s.spd = .bitFall) ∧ s.pins.dqIn = true ∧
          s.tmr.toNat = s.waitTimeoutTicks - 1) ∨
        ((s.spd = .ackH ∨ s.spd = .bitRise) ∧ s.pins.dqIn = false ∧ s.tmr.toNat = s.waitTimeoutTicks - 1)
     (ends → exec .sPoll s = .next { d with seq := .sShow, tmr := 0 }) ∧
     (ends → exec .aConfPoll s = .next { d with seq := .aConfCount, tmr := 0 }) ∧
     (ends → exec .aSustPoll s = .next { d with seq := .aSustChk, tmr := 0 }) ∧
     (¬ ends → exec .sPoll s = .next d ∧ exec .aConfPoll s = .next d ∧ exec .aSustPoll s = .next d))

/-- At the last tick of a `C_SET_*` state the event word `{id, held, sel_q, sel_b}` is decoded and its operation runs
(R87). -/
def Obligations.SettledEventRunsTheDecodedWord : Prop :=
  ∀ s : State, s.tmr.toNat = 999999 → ∃ (iu id im io : Instr) (u d m o : State),
    decode (.evt5 (0#2 ++ BitVec.ofBool (s.pins.btn.getLsbD 0) ++ BitVec.ofBool s.selQ.code ++ BitVec.ofBool s.selB.code)) =
      .ok iu ∧
    decode (.evt5 (1#2 ++ BitVec.ofBool (s.pins.btn.getLsbD 1) ++ BitVec.ofBool s.selQ.code ++ BitVec.ofBool s.selB.code)) =
      .ok id ∧
    decode (.evt5 (2#2 ++ BitVec.ofBool (s.pins.btn.getLsbD 2) ++ BitVec.ofBool s.selQ.code ++ BitVec.ofBool s.selB.code)) =
      .ok im ∧
    decode (.evt5 (3#2 ++ BitVec.ofBool (s.pins.btn.getLsbD 3) ++ BitVec.ofBool s.selQ.code ++ BitVec.ofBool s.selB.code)) =
      .ok io ∧
    exec iu s = .next u ∧ exec .cSetUp s = .next { u with seq := .cChkDown, tmr := 0 } ∧
    exec id s = .next d ∧ exec .cSetDown s = .next { d with seq := .cChkOk, tmr := 0 } ∧
    exec im s = .next m ∧ exec .cSetMode s = .next { m with seq := .cChkUp, tmr := 0 } ∧
    exec io s = .next o ∧ exec .cSetOk s = .next o

/-- S_ENTRY decodes the pending flags, and CHECK the frame: where the word selects an operation, that operation is what the
state does (R86, R84, R123). -/
def Obligations.NestedWordsSelectTheOperation : Prop :=
  ∀ s : State,
    (∀ i, decode (.pend4 s.pend) = .ok i → exec .sEntry s = exec i s) ∧
    (∀ i, decode (.frame40 s.frame) = .ok i → exec .check s = exec i s)

/-! ### The decoder -/

/-- IDLE does nothing (R120). -/
def Obligations.IdleDoesNothing : Prop :=
  decode (.spd4 0) = .ok .idle ∧
  ∀ s : State, exec .idle s = .next s ∧ (s.spd = .idle → s.outputs.dqOe = false ∧ s.outputs.dqOut = false)

/-- START_LOW (R112): `DWELL(20 000)` with the pin driven low, then START_HIGH; entered with `tmr = 0` in a poll it lasts
exactly 20 000 ticks. -/
def Obligations.StartLowDrivesThePinLow : Prop :=
  decode (.spd4 1) = .ok .startLow ∧
  (∀ s : State, DwellsFor 20000 s (exec .startLow s) { s with spd := .startHigh, tmr := 0 } ∧
    (s.spd = .startLow → s.outputs.dqOe = true ∧ s.outputs.dqOut = false)) ∧
  (∀ s : State, isPolling s.seq = true → s.spd = .startLow → s.tmr = 0 → NoReset 20000 s →
    (∀ k, k < 20000 → ∃ t, runTicks k s = .next t ∧ t.spd = .startLow ∧ t.outputs.dqOe = true ∧ t.outputs.dqOut = false) ∧
    ∃ t, runTicks 20000 s = .next t ∧ t.spd = .startHigh ∧ t.tmr = 0 ∧ t.seq = s.seq)

/-- START_HIGH (R113): `DWELL(20)` with the pin driven high, then ACK_L1 with the pin an input; entered with `tmr = 0` in a
poll it lasts exactly 20 ticks. -/
def Obligations.StartHighDrivesThePinHigh : Prop :=
  decode (.spd4 2) = .ok .startHigh ∧
  (∀ s : State, DwellsFor 20 s (exec .startHigh s) { s with spd := .ackL1, tmr := 0 } ∧
    (s.spd = .startHigh → s.outputs.dqOe = true ∧ s.outputs.dqOut = true)) ∧
  (∀ s : State, isPolling s.seq = true → s.spd = .startHigh → s.tmr = 0 → NoReset 20 s →
    (∀ k, k < 20 → ∃ t, runTicks k s = .next t ∧ t.spd = .startHigh ∧ t.outputs.dqOe = true ∧ t.outputs.dqOut = true) ∧
    ∃ t, runTicks 20 s = .next t ∧ t.spd = .ackL1 ∧ t.tmr = 0 ∧ t.seq = s.seq ∧ t.outputs.dqOe = false)

/-- ACK_L1, ACK_H, ACK_L2 (R114 to R116): `WAIT(0)` then ACK_H, `WAIT(1)` then ACK_L2, `WAIT(0)` then BIT_RISE; the pin is
an input. -/
def Obligations.HandshakeAwaitsLowHighLow : Prop :=
  decode (.spd4 3) = .ok .ackL1 ∧ decode (.spd4 4) = .ok .ackH ∧ decode (.spd4 5) = .ok .ackL2 ∧
  ∀ s : State,
    AwaitsLevel false s (exec .ackL1 s) { s with spd := .ackH, tmr := 0 } ∧
    AwaitsLevel true s (exec .ackH s) { s with spd := .ackL2, tmr := 0 } ∧
    AwaitsLevel false s (exec .ackL2 s) { s with spd := .bitRise, tmr := 0 } ∧
    (s.spd = .ackL1 ∨ s.spd = .ackH ∨ s.spd = .ackL2 → s.outputs.dqOe = false)

/-- BIT_RISE (R117): `WAIT(1)`, then BIT_DELAY; the pin is an input. -/
def Obligations.BitRiseAwaitsHigh : Prop :=
  decode (.spd4 6) = .ok .bitRise ∧
  ∀ s : State, AwaitsLevel true s (exec .bitRise s) { s with spd := .bitDelay, tmr := 0 } ∧
    (s.spd = .bitRise → s.outputs.dqOe = false)

/-- BIT_DELAY with SAMPLE (R118, R122): `DWELL(29)`; at its last tick `frame <- {frame[38:0], dq_in}`,
`bitcnt <- bitcnt + 1`, then BIT_FALL. At `bitcnt = 63`, which no run reaches, the sum is unstated and the statement says
nothing of it. -/
def Obligations.BitDelaySamplesAtItsLastTick : Prop :=
  decode (.spd4 7) = .ok .bitDelay ∧
  ∀ s : State,
    (s.tmr.toNat = 28 → ∃ n : BitVec 6, (s.bitcnt.toNat + 1 < 64 → n.toNat = s.bitcnt.toNat + 1) ∧
      exec .bitDelay s = .next
        { s with frame := s.frame.extractLsb' 0 39 ++ BitVec.ofBool s.pins.dqIn, bitcnt := n, spd := .bitFall, tmr := 0 }) ∧
    (s.tmr.toNat ≠ 28 → CountsOn s (exec .bitDelay s)) ∧
    (s.spd = .bitDelay → s.outputs.dqOe = false)

/-- BIT_FALL (R119): `WAIT(0)`, then CHECK when 40 bits are in, else BIT_RISE; the pin is an input. -/
def Obligations.BitFallAwaitsLow : Prop :=
  decode (.spd4 8) = .ok .bitFall ∧
  ∀ s : State,
    (s.bitcnt.toNat = 40 → AwaitsLevel false s (exec .bitFall s) { s with spd := .check, tmr := 0 }) ∧
    (s.bitcnt.toNat ≠ 40 → AwaitsLevel false s (exec .bitFall s) { s with spd := .bitRise, tmr := 0 }) ∧
    (s.spd = .bitFall → s.outputs.dqOe = false)

/-- CHECK, CHECK.OK and CHECK.BAD (R123, R124, R125): the sum of `b[0..3]` modulo 256 against `b[4]`; a good frame is stored
with `err <- 0`, a bad one leaves the reading and sets `err <- 2`; both end the poll. The clauses
for CHECK.OK and CHECK.BAD run alone take the bytes of their own word, whatever the frame holds: that reading is the model's
(DEDUCED, log entry 4). -/
def Obligations.CheckStoresOnlyAGoodFrame : Prop :=
  decode (.spd4 9) = .ok .check ∧
  ∀ (s : State) (h f t g c : Byte),
    (s.frame = h ++ f ++ t ++ g ++ c → (h.toNat + f.toNat + t.toNat + g.toNat) % 256 = c.toNat →
      exec .check s = .next { s with hum := h, temp := t, valid := true, err := .none, spd := .idle, tmr := 0 }) ∧
    (s.frame = h ++ f ++ t ++ g ++ c → (h.toNat + f.toNat + t.toNat + g.toNat) % 256 ≠ c.toNat →
      exec .check s = .next { s with err := .checksumMismatch, spd := .idle, tmr := 0 }) ∧
    exec (.checkOk h f t g c) s =
      .next { s with hum := h, temp := t, valid := true, err := .none, spd := .idle, tmr := 0 } ∧
    exec (.checkBad h f t g c) s = .next { s with err := .checksumMismatch, spd := .idle, tmr := 0 } ∧
    (s.spd = .check → s.outputs.dqOe = false ∧ s.outputs.dqOut = false)

/-! ### The sequencer's main loop -/

/-- S_GAP (R216): `DWELL(LOOP_GAP_TICKS)`, then S_POLL with the poll started: `spd <- START_LOW`, `tmr`, `frame` and `bitcnt`
cleared (R111). It is the state after reset. -/
def Obligations.GapThenPoll : Prop :=
  decode (.seq5 0) = .ok .sGap ∧ State.reset.seq = .sGap ∧ State.reset.tmr = 0 ∧
  ∀ s : State, DwellsFor s.loopGapTicks s (exec .sGap s)
    { s with seq := .sPoll, spd := .startLow, tmr := 0, frame := 0, bitcnt := 0 }

/-- S_SHOW (R219): one tick; it requests the READING screen iff the last poll was good. -/
def Obligations.ShowRequestsTheReading : Prop :=
  decode (.seq5 2) = .ok .sShow ∧
  ∀ s : State, exec .sShow s = .next { s with seq := .sEntry, tmr := 0 } ∧
    (s.seq = .sShow → s.err = .none → s.outputs.disp = ⟨true, .reading, .temperature, .low, s.hum, s.temp⟩) ∧
    (s.seq = .sShow → s.err ≠ .none → s.outputs.disp.stb = false)

/-! ### The configuration machine -/

/-- S_ENTRY with ENTER (R161): on `ud | m` exactly the flags that form a trigger are cleared and S_ENTRY_SETTLE follows,
else E_GATE; OK is neither tested nor cleared. -/
def Obligations.EntryClearsTheTriggersFlags : Prop :=
  decode (.seq5 3) = .ok .sEntry ∧
  ∀ s : State,
    (s.pend.getLsbD 0 = true → s.pend.getLsbD 1 = true → s.pend.getLsbD 2 = true →
      exec .sEntry s = .next { s with pend := s.pend &&& 0b1000, seq := .sEntrySettle, tmr := 0 }) ∧
    (s.pend.getLsbD 0 = true → s.pend.getLsbD 1 = true → s.pend.getLsbD 2 = false →
      exec .sEntry s = .next { s with pend := s.pend &&& 0b1100, seq := .sEntrySettle, tmr := 0 }) ∧
    (¬ (s.pend.getLsbD 0 = true ∧ s.pend.getLsbD 1 = true) → s.pend.getLsbD 2 = true →
      exec .sEntry s = .next { s with pend := s.pend &&& 0b1011, seq := .sEntrySettle, tmr := 0 }) ∧
    (¬ (s.pend.getLsbD 0 = true ∧ s.pend.getLsbD 1 = true) → s.pend.getLsbD 2 = false →
      exec .sEntry s = .next { s with seq := .eGate, tmr := 0 })

/-- ENTER as selected by each of its two rows (R86, R161): the flags that the word shows as a trigger are cleared. That the
operation run alone takes its flags from its word is the model's reading (DEDUCED, log entry 4). -/
def Obligations.EnterByItsTwoPatterns : Prop :=
  ∀ (s : State) (ok mode down up : Bool),
    exec (.enterMode ok down up) s =
      .next { s with
        pend := s.pend &&& (if down && up then 0b1000 else 0b1011), seq := .sEntrySettle, tmr := 0 } ∧
    exec (.enterUpDown ok mode) s =
      .next { s with pend := s.pend &&& (if mode then 0b1000 else 0b1100), seq := .sEntrySettle, tmr := 0 }

/-- S_ENTRY_SETTLE (R162): `DWELL(1 000 000)`, then Temperature, High and C_DRAW. -/
def Obligations.EntrySettlesToTemperatureHigh : Prop :=
  decode (.seq5 4) = .ok .sEntrySettle ∧
  ∀ s : State, DwellsFor 1000000 s (exec .sEntrySettle s)
    { s with selQ := .temperature, selB := .high, seq := .cDraw, tmr := 0 }

/-- C_DRAW (R163): one tick; the CONFIG screen is requested with the selection and the selected threshold (R93). -/
def Obligations.DrawRequestsTheSelection : Prop :=
  decode (.seq5 5) = .ok .cDraw ∧
  ∀ s : State, exec .cDraw s = .next { s with seq := .cDelay, tmr := 0 } ∧
    (s.seq = .cDraw →
      (s.selQ = .temperature → s.selB = .high → s.outputs.disp = ⟨true, .config, .temperature, .high, s.tempHigh, 0⟩) ∧
      (s.selQ = .temperature → s.selB = .low → s.outputs.disp = ⟨true, .config, .temperature, .low, s.tempLow, 0⟩) ∧
      (s.selQ = .humidity → s.selB = .high → s.outputs.disp = ⟨true, .config, .humidity, .high, s.humHigh, 0⟩) ∧
      (s.selQ = .humidity → s.selB = .low → s.outputs.disp = ⟨true, .config, .humidity, .low, s.humLow, 0⟩))

/-- C_DELAY (R164): `DWELL(200 000)`, then C_CHK_MODE. -/
def Obligations.RefreshDelayThenChecks : Prop :=
  decode (.seq5 6) = .ok .cDelay ∧
  ∀ s : State, DwellsFor 200000 s (exec .cDelay s) { s with seq := .cChkMode, tmr := 0 }

/-- C_CHK_MODE, C_CHK_UP, C_CHK_DOWN, C_CHK_OK (R165 to R168): one tick each; a set flag is cleared and its settle state
entered, a clear one passes on in the order MODE, UP, DOWN, OK, C_DRAW. -/
def Obligations.ChecksConsumeOneFlagEach : Prop :=
  decode (.seq5 7) = .ok .cChkMode ∧ decode (.seq5 9) = .ok .cChkUp ∧
  decode (.seq5 11) = .ok .cChkDown ∧ decode (.seq5 13) = .ok .cChkOk ∧
  ∀ s : State,
    exec .cChkMode s = .next
      (if s.pend.getLsbD 2 then { s with pend := s.pend &&& 0b1011, seq := .cSetMode, tmr := 0 }
      else { s with seq := .cChkUp, tmr := 0 }) ∧
    exec .cChkUp s = .next
      (if s.pend.getLsbD 0 then { s with pend := s.pend &&& 0b1110, seq := .cSetUp, tmr := 0 }
      else { s with seq := .cChkDown, tmr := 0 }) ∧
    exec .cChkDown s = .next
      (if s.pend.getLsbD 1 then { s with pend := s.pend &&& 0b1101, seq := .cSetDown, tmr := 0 }
      else { s with seq := .cChkOk, tmr := 0 }) ∧
    exec .cChkOk s = .next
      (if s.pend.getLsbD 3 then { s with pend := s.pend &&& 0b0111, seq := .cSetOk, tmr := 0 }
      else { s with seq := .cDraw, tmr := 0 })

/-- C_SET_MODE performing TOGGLE (R169): `DWELL(1 000 000)`; at its last tick the quantity flips, whatever the button's
level, and C_CHK_UP follows. TOGGLE, selected by `10hqb`, run alone flips `sel_q` and nothing else: that the transfer and
`tmr`, which R169 lists with it, belong to C_SET_MODE alone is the model's reading (DEDUCED, log entry 4). -/
def Obligations.ToggleFlipsTheQuantity : Prop :=
  decode (.seq5 8) = .ok .cSetMode ∧
  (∀ h q b, decode (.evt5 (0b10#2 ++ BitVec.ofBool h ++ BitVec.ofBool q ++ BitVec.ofBool b)) =
    .ok (.toggle h (Quantity.ofCode q) (Bound.ofCode b))) ∧
  ∀ (s : State) (held : Bool) (q : Quantity) (b : Bound),
    exec (.toggle held q b) s = .next { s with selQ := otherQuantity s.selQ } ∧
    DwellsFor 1000000 s (exec .cSetMode s) { s with selQ := otherQuantity s.selQ, seq := .cChkUp, tmr := 0 }

/-- C_SET_UP (R170): `DWELL(1 000 000)`; at its last tick a released UP selects the high bound, a held one runs the INC
operation of the selection; then C_CHK_DOWN. -/
def Obligations.UpEventSelectsOrIncrements : Prop :=
  decode (.seq5 10) = .ok .cSetUp ∧
  ∀ s : State, ∃ u : State,
    (s.pins.btn.getLsbD 0 = false → exec (.selhi s.selQ s.selB) s = .next u) ∧
    (s.pins.btn.getLsbD 0 = true → s.selQ = .temperature → s.selB = .high → exec .incTh s = .next u) ∧
    (s.pins.btn.getLsbD 0 = true → s.selQ = .temperature → s.selB = .low → exec .incTl s = .next u) ∧
    (s.pins.btn.getLsbD 0 = true → s.selQ = .humidity → s.selB = .high → exec .incHh s = .next u) ∧
    (s.pins.btn.getLsbD 0 = true → s.selQ = .humidity → s.selB = .low → exec .incHl s = .next u) ∧
    DwellsFor 1000000 s (exec .cSetUp s) { u with seq := .cChkDown, tmr := 0 }

/-- C_SET_DOWN (R179): `DWELL(1 000 000)`; at its last tick a released DOWN selects the low bound, a held one runs the DEC
operation of the selection; then C_CHK_OK. -/
def Obligations.DownEventSelectsOrDecrements : Prop :=
  decode (.seq5 12) = .ok .cSetDown ∧
  ∀ s : State, ∃ u : State,
    (s.pins.btn.getLsbD 1 = false → exec (.sello s.selQ s.selB) s = .next u) ∧
    (s.pins.btn.getLsbD 1 = true → s.selQ = .temperature → s.selB = .high → exec .decTh s = .next u) ∧
    (s.pins.btn.getLsbD 1 = true → s.selQ = .temperature → s.selB = .low → exec .decTl s = .next u) ∧
    (s.pins.btn.getLsbD 1 = true → s.selQ = .humidity → s.selB = .high → exec .decHh s = .next u) ∧
    (s.pins.btn.getLsbD 1 = true → s.selQ = .humidity → s.selB = .low → exec .decHl s = .next u) ∧
    DwellsFor 1000000 s (exec .cSetDown s) { u with seq := .cChkOk, tmr := 0 }

/-- C_SET_OK performing EXIT or OKTAP (R183): `DWELL(1 000 000)`; at its last tick a held OK goes to E_GATE, a tap to C_DRAW;
the two operations, selected by `111qb` and `110qb`, do just that transfer. -/
def Obligations.OkEventLeavesOnlyWhenHeld : Prop :=
  decode (.seq5 14) = .ok .cSetOk ∧
  (∀ q b, decode (.evt5 (0b111#3 ++ BitVec.ofBool q ++ BitVec.ofBool b)) = .ok (.exit (Quantity.ofCode q) (Bound.ofCode b))) ∧
  (∀ q b, decode (.evt5 (0b110#3 ++ BitVec.ofBool q ++ BitVec.ofBool b)) = .ok (.oktap (Quantity.ofCode q) (Bound.ofCode b))) ∧
  ∀ (s : State) (q : Quantity) (b : Bound),
    exec (.exit q b) s = .next { s with seq := .eGate, tmr := 0 } ∧
    exec (.oktap q b) s = .next { s with seq := .cDraw, tmr := 0 } ∧
    DwellsFor 1000000 s (exec .cSetOk s) { s with seq := if s.pins.btn.getLsbD 3 then .eGate else .cDraw, tmr := 0 }

/-- SELHI and SELLO (R181, R182): the bound is selected and nothing else changes. -/
def Obligations.TapSelectsTheBound : Prop :=
  (∀ q b, decode (.evt5 (0b000#3 ++ BitVec.ofBool q ++ BitVec.ofBool b)) = .ok (.selhi (Quantity.ofCode q) (Bound.ofCode b))) ∧
  (∀ q b, decode (.evt5 (0b010#3 ++ BitVec.ofBool q ++ BitVec.ofBool b)) = .ok (.sello (Quantity.ofCode q) (Bound.ofCode b))) ∧
  ∀ (s : State) (q : Quantity) (b : Bound),
    exec (.selhi q b) s = .next { s with selB := .high } ∧ exec (.sello q b) s = .next { s with selB := .low }

/-- INC.TH, INC.TL, INC.HH, INC.HL (R171 to R174): one step up under the guard, else nothing; the new value is the natural
number, so nothing wraps. -/
def Obligations.IncrementsStepUnderTheirGuards : Prop :=
  decode (.evt5 0b00101) = .ok .incTh ∧ decode (.evt5 0b00100) = .ok .incTl ∧
  decode (.evt5 0b00111) = .ok .incHh ∧ decode (.evt5 0b00110) = .ok .incHl ∧
  ∀ s : State,
    (s.tempHigh.toNat < 50 → ∃ v : Byte, v.toNat = s.tempHigh.toNat + 1 ∧ exec .incTh s = .next { s with tempHigh := v }) ∧
    (50 ≤ s.tempHigh.toNat → exec .incTh s = .next s) ∧
    (s.tempLow.toNat < s.tempHigh.toNat →
      ∃ v : Byte, v.toNat = s.tempLow.toNat + 1 ∧ exec .incTl s = .next { s with tempLow := v }) ∧
    (s.tempHigh.toNat ≤ s.tempLow.toNat → exec .incTl s = .next s) ∧
    (s.humHigh.toNat + 10 ≤ 90 →
      ∃ v : Byte, v.toNat = s.humHigh.toNat + 10 ∧ exec .incHh s = .next { s with humHigh := v }) ∧
    (90 < s.humHigh.toNat + 10 → exec .incHh s = .next s) ∧
    (s.humLow.toNat + 10 ≤ s.humHigh.toNat → s.humLow.toNat + 10 ≤ 90 →
      ∃ v : Byte, v.toNat = s.humLow.toNat + 10 ∧ exec .incHl s = .next { s with humLow := v }) ∧
    (¬ (s.humLow.toNat + 10 ≤ s.humHigh.toNat ∧ s.humLow.toNat + 10 ≤ 90) → exec .incHl s = .next s)

/-- DEC.TH, DEC.TL, DEC.HH, DEC.HL (R175 to R178): one step down under the guard, else nothing; no value goes below its
floor or wraps. -/
def Obligations.DecrementsStepUnderTheirGuards : Prop :=
  decode (.evt5 0b01101) = .ok .decTh ∧ decode (.evt5 0b01100) = .ok .decTl ∧
  decode (.evt5 0b01111) = .ok .decHh ∧ decode (.evt5 0b01110) = .ok .decHl ∧
  ∀ s : State,
    (s.tempLow.toNat < s.tempHigh.toNat →
      ∃ v : Byte, v.toNat + 1 = s.tempHigh.toNat ∧ exec .decTh s = .next { s with tempHigh := v }) ∧
    (s.tempHigh.toNat ≤ s.tempLow.toNat → exec .decTh s = .next s) ∧
    (0 < s.tempLow.toNat → ∃ v : Byte, v.toNat + 1 = s.tempLow.toNat ∧ exec .decTl s = .next { s with tempLow := v }) ∧
    (s.tempLow.toNat = 0 → exec .decTl s = .next s) ∧
    (s.humLow.toNat + 10 ≤ s.humHigh.toNat → 20 ≤ s.humHigh.toNat →
      ∃ v : Byte, v.toNat + 10 = s.humHigh.toNat ∧ exec .decHh s = .next { s with humHigh := v }) ∧
    (¬ (s.humLow.toNat + 10 ≤ s.humHigh.toNat ∧ 20 ≤ s.humHigh.toNat) → exec .decHh s = .next s) ∧
    (20 ≤ s.humLow.toNat → ∃ v : Byte, v.toNat + 10 = s.humLow.toNat ∧ exec .decHl s = .next { s with humLow := v }) ∧
    (s.humLow.toNat < 20 → exec .decHl s = .next s)

/-! ### The alarm evaluator -/

/-- `oor(q)` is strictly outside the closed interval of the quantity's thresholds, unsigned (R190). -/
def Obligations.OutOfRangeIsStrictlyOutside : Prop :=
  ∀ s : State,
    (s.oor .temperature = true ↔ s.temp.toNat < s.tempLow.toNat ∨ s.tempHigh.toNat < s.temp.toNat) ∧
    (s.oor .humidity = true ↔ s.hum.toNat < s.humLow.toNat ∨ s.humHigh.toNat < s.hum.toNat)

/-- E_GATE (R193): a valid reading out of range for this quantity enters its confirmation phase with a poll started, else
NEXT: humidity's gate after temperature's, then S_GAP (R192). -/
def Obligations.GateOpensOnAValidOutOfRangeReading : Prop :=
  decode (.seq5 15) = .ok .eGate ∧
  ∀ s : State,
    (s.valid = true → s.oor s.curQ = true → s.curQ = .temperature → exec .eGate s = .next
      { s with alarmT := .confirming, oorCnt := 0, sampIdx := 0, seq := .aConfPoll,
               spd := .startLow, tmr := 0, frame := 0, bitcnt := 0 }) ∧
    (s.valid = true → s.oor s.curQ = true → s.curQ = .humidity → exec .eGate s = .next
      { s with alarmH := .confirming, oorCnt := 0, sampIdx := 0, seq := .aConfPoll,
               spd := .startLow, tmr := 0, frame := 0, bitcnt := 0 }) ∧
    (¬ (s.valid = true ∧ s.oor s.curQ = true) → s.curQ = .temperature →
      exec .eGate s = .next { s with curQ := .humidity, seq := .eGate, tmr := 0 }) ∧
    (¬ (s.valid = true ∧ s.oor s.curQ = true) → s.curQ = .humidity →
      exec .eGate s = .next { s with curQ := .temperature, seq := .sGap, tmr := 0 })

/-- A_CONF_COUNT (R195): one tick; an out-of-range reading adds to `oor_cnt`, every sample to `samp_idx`; the third goes on to
A_CONF_DECIDE, the others to A_CONF_GAP. At a count of 3, which no run reaches here, the sum is unstated and the statement
says nothing of it. -/
def Obligations.ConfirmationCountsThreeSamples : Prop :=
  decode (.seq5 17) = .ok .aConfCount ∧
  ∀ s : State, ∃ o n : BitVec 2,
    (s.sampIdx.toNat < 3 → n.toNat = s.sampIdx.toNat + 1) ∧
    (s.oor s.curQ = true → s.oorCnt.toNat < 3 → o.toNat = s.oorCnt.toNat + 1) ∧
    (s.oor s.curQ = false → o = s.oorCnt) ∧
    exec .aConfCount s = .next
      { s with oorCnt := o, sampIdx := n, seq := if s.sampIdx.toNat = 2 then .aConfDecide else .aConfGap, tmr := 0 }

/-- A_CONF_GAP and A_SUST_GAP (R196, R200): `DWELL(200 000)`, then A_CONF_POLL, and `DWELL(300 000)`, then A_SUST_POLL, each
with a poll started (R111). -/
def Obligations.EvaluatorGapsThenPoll : Prop :=
  decode (.seq5 18) = .ok .aConfGap ∧ decode (.seq5 22) = .ok .aSustGap ∧
  ∀ s : State,
    DwellsFor 200000 s (exec .aConfGap s)
      { s with seq := .aConfPoll, spd := .startLow, tmr := 0, frame := 0, bitcnt := 0 } ∧
    DwellsFor 300000 s (exec .aSustGap s)
      { s with seq := .aSustPoll, spd := .startLow, tmr := 0, frame := 0, bitcnt := 0 }

/-- A_CONF_DECIDE (R197): three of three enter Sustained with the normal indicator off and a poll started; fewer return the
quantity to Normal and NEXT follows. -/
def Obligations.ThreeOfThreeSustains : Prop :=
  decode (.seq5 19) = .ok .aConfDecide ∧
  ∀ s : State,
    (s.oorCnt.toNat = 3 → s.curQ = .temperature → exec .aConfDecide s = .next
      { s with alarmT := .sustained, ledNormal := false, seq := .aSustPoll,
               spd := .startLow, tmr := 0, frame := 0, bitcnt := 0 }) ∧
    (s.oorCnt.toNat = 3 → s.curQ = .humidity → exec .aConfDecide s = .next
      { s with alarmH := .sustained, ledNormal := false, seq := .aSustPoll,
               spd := .startLow, tmr := 0, frame := 0, bitcnt := 0 }) ∧
    (s.oorCnt.toNat ≠ 3 → s.curQ = .temperature →
      exec .aConfDecide s = .next { s with alarmT := .normal, curQ := .humidity, seq := .eGate, tmr := 0 }) ∧
    (s.oorCnt.toNat ≠ 3 → s.curQ = .humidity →
      exec .aConfDecide s = .next { s with alarmH := .normal, curQ := .temperature, seq := .sGap, tmr := 0 })

/-- A_SUST_CHK (R199): still out of range toggles the alarm indicator and waits; back in range clears it, restores the normal
indicator, returns the quantity to Normal, and NEXT follows. While out of range the ALARM screen shows the offending value
(R92). -/
def Obligations.SustainedTogglesUntilInRange : Prop :=
  decode (.seq5 21) = .ok .aSustChk ∧
  ∀ s : State,
    (s.oor s.curQ = true → exec .aSustChk s = .next { s with ledAlarm := !s.ledAlarm, seq := .aSustGap, tmr := 0 }) ∧
    (s.oor s.curQ = false → s.curQ = .temperature → exec .aSustChk s = .next
      { s with alarmT := .normal, ledAlarm := false, ledNormal := true, curQ := .humidity, seq := .eGate, tmr := 0 }) ∧
    (s.oor s.curQ = false → s.curQ = .humidity → exec .aSustChk s = .next
      { s with alarmH := .normal, ledAlarm := false, ledNormal := true, curQ := .temperature, seq := .sGap, tmr := 0 }) ∧
    (s.seq = .aSustChk → s.oor s.curQ = true →
      s.outputs.disp = ⟨true, .alarm, s.curQ, .low, if s.curQ = .temperature then s.temp else s.hum, 0⟩)

/-! ### Reset and outputs -/

/-- Reset (R43, R270): at a tick with `rst` high every register takes the value of the table, whatever the state, and no
other rule applies; the outputs are those R43 gives. That the parameters stay and
the trace of levels goes on is the model's choice (DESIGN CHOICE, log entries 1 and 2). -/
def Obligations.ResetGivesEveryRegisterItsValue : Prop :=
  ∀ s : State, s.pins.rst = true → ∃ t : State, step s = .next t ∧
    t = { hum := 0, temp := 0, valid := false, tempHigh := 30, tempLow := 20, humHigh := 70, humLow := 50, frame := 0,
          bitcnt := 0, seq := .sGap, spd := .idle, tmr := 0, curQ := .temperature, oorCnt := 0, sampIdx := 0,
          selQ := .temperature, selB := .high, err := .none, alarmT := .normal, alarmH := .normal, pend := 0b0000,
          btnPrev := 0b1111, ledAlarm := false, ledNormal := true, waitLast := s.waitLast, loopGapLast := s.loopGapLast,
          pins := levels s 1, stim := s.stim.tail, tick := s.tick + 1 } ∧
    t.outputs.dqOe = false ∧ t.outputs.dqOut = false ∧ t.outputs.cfgActive = false ∧
    t.outputs.disp.stb = false ∧ t.outputs.disp.word = 0

/-- Every output port (R40, R42): the pin and `cfg_active` as R41 and R42 give them; the indicators and the observation ports
are wires from their registers, with the codes of R29, R31, R32, R88 and R89 (a code is the state's place in its table); the
render request is made in three states only, as `DISP20` has the bit order of R92, and every field is 0 elsewhere. -/
def Obligations.OutputsAreFunctionsOfTheState : Prop :=
  ∀ s : State,
    -- the pin and the mode
    (s.outputs.dqOe = true ↔ s.spd = .startLow ∨ s.spd = .startHigh) ∧
    (s.outputs.dqOut = true ↔ s.spd = .startHigh) ∧
    (s.outputs.cfgActive = true ↔ 5 ≤ s.seq.code.toNat ∧ s.seq.code.toNat ≤ 14) ∧
    -- wires from registers
    s.outputs.ledAlarm = s.ledAlarm ∧ s.outputs.ledNormal = s.ledNormal ∧
    s.outputs.humO = s.hum ∧ s.outputs.tempO = s.temp ∧ s.outputs.validO = s.valid ∧
    s.outputs.tempHighO = s.tempHigh ∧ s.outputs.tempLowO = s.tempLow ∧
    s.outputs.humHighO = s.humHigh ∧ s.outputs.humLowO = s.humLow ∧ s.outputs.pendO = s.pend ∧
    -- wires from registers that hold a code
    (s.outputs.selQO = true ↔ s.selQ = .humidity) ∧ (s.outputs.selBO = true ↔ s.selB = .high) ∧
    (s.err = .none → s.outputs.errO = 0) ∧ (s.err = .noResponse → s.outputs.errO = 1) ∧
    (s.err = .checksumMismatch → s.outputs.errO = 2) ∧
    (s.alarmT = .normal → s.outputs.alarmTO = 0) ∧ (s.alarmT = .confirming → s.outputs.alarmTO = 1) ∧
    (s.alarmT = .sustained → s.outputs.alarmTO = 2) ∧
    (s.alarmH = .normal → s.outputs.alarmHO = 0) ∧ (s.alarmH = .confirming → s.outputs.alarmHO = 1) ∧
    (s.alarmH = .sustained → s.outputs.alarmHO = 2) ∧
    s.outputs.seqO.toNat =
      [SeqState.sGap, .sPoll, .sShow, .sEntry, .sEntrySettle, .cDraw, .cDelay, .cChkMode, .cSetMode, .cChkUp, .cSetUp,
        .cChkDown, .cSetDown, .cChkOk, .cSetOk, .eGate, .aConfPoll, .aConfCount, .aConfGap, .aConfDecide, .aSustPoll,
        .aSustChk, .aSustGap].idxOf s.seq ∧
    s.outputs.spdO.toNat =
      [SpdState.idle, .startLow, .startHigh, .ackL1, .ackH, .ackL2, .bitRise, .bitDelay, .bitFall, .check].idxOf s.spd ∧
    -- the render request
    (s.outputs.disp.stb = true ↔
      (s.seq = .sShow ∧ s.err = .none) ∨ s.seq = .cDraw ∨ (s.seq = .aSustChk ∧ s.oor s.curQ = true)) ∧
    (s.seq = .sShow → s.err = .none → s.outputs.disp.word = 0b00#2 ++ 0#1 ++ 0#1 ++ s.hum ++ s.temp) ∧
    (s.seq = .cDraw → s.outputs.disp.word =
      0b01#2 ++ (if s.selQ = .humidity then 1#1 else 0#1) ++ (if s.selB = .high then 1#1 else 0#1) ++
        (if s.selQ = .humidity then (if s.selB = .high then s.humHigh else s.humLow)
          else (if s.selB = .high then s.tempHigh else s.tempLow)) ++ 0#8) ∧
    (s.seq = .aSustChk → s.oor s.curQ = true → s.outputs.disp.word =
      0b10#2 ++ (if s.curQ = .humidity then 1#1 else 0#1) ++ 0#1 ++ (if s.curQ = .humidity then s.hum else s.temp) ++ 0#8) ∧
    (s.outputs.disp.stb = false → s.outputs.disp.word = 0)

/-! ### Invariants -/

/-- The state after reset meets the invariant (R43). -/
def Obligations.ResetMeetsTheInvariant : Prop :=
  Inv State.reset

/-- Every tick, with any levels at the ports, keeps the invariant: the polling states and the decoder agree (R26), the
thresholds stay in bounds (R180), alarms and indicators follow the phase (R28, R32), the timer and the counters stay in
range (R189, R253). -/
def Obligations.EveryTickKeepsTheInvariant : Prop :=
  ∀ s t : State, Inv s → step s = .next t → Inv t

/-- The threshold invariant alone is kept by every tick of every state that meets it (R23, R180), reachable or not. -/
def Obligations.EveryTickKeepsTheThresholdsInBounds : Prop :=
  ∀ s t : State, ThresholdsInBounds s → step s = .next t → ThresholdsInBounds t

/-! ### Rules of the whole machine -/

/-- NOTIFY and the flag update at every tick, in every state (R141, R142): `pend <- edge | (pend & ~clr)`, set wins over
clear; the flags cleared are those R161 and R165 to R168 clear. -/
def Obligations.PendingFlagsAndEdges : Prop :=
  ∀ s : State, s.pins.rst = false → ∃ t, step s = .next t ∧ t.btnPrev = s.pins.btn ∧
    ∀ i, i < 4 → t.pend.getLsbD i =
      ((s.pins.btn.getLsbD i && !s.btnPrev.getLsbD i) ||
        (s.pend.getLsbD i &&
          !((s.seq == .sEntry && i == 2) ||
            (s.seq == .sEntry && (i == 0 || i == 1) && s.pend.getLsbD 0 && s.pend.getLsbD 1) ||
            (s.seq == .cChkMode && i == 2) || (s.seq == .cChkUp && i == 0) ||
            (s.seq == .cChkDown && i == 1) || (s.seq == .cChkOk && i == 3))))

/-- The buttons disturb nothing but `pend` and `btn_prev` outside the states that test flags or re-sample a button (R141,
R146, R249): two states that differ in buttons and flags alone go to states that differ in those alone. -/
def Obligations.NotificationsDoNotDisturbTheMainThread : Prop :=
  ∀ (s t : State) (p bp b : Buttons), s.pins.rst = false →
    s.seq ∉ [SeqState.sEntry, .cChkMode, .cChkUp, .cChkDown, .cChkOk, .cSetUp, .cSetDown, .cSetOk] →
    step s = .next t →
    step { s with pend := p, btnPrev := bp, pins := { s.pins with btn := b } } =
      .next { t with pend := (b &&& ~~~bp) ||| p, btnPrev := b }

/-- `dq_in` is read only by the waits and at the sample tick (R40, U10): elsewhere its level does not matter. -/
def Obligations.SensorPinIsIgnoredWhereItIsNotRead : Prop :=
  ∀ (s : State) (level : Bool),
    (s.spd = .idle ∨ s.spd = .startLow ∨ s.spd = .startHigh ∨ s.spd = .check ∨ (s.spd = .bitDelay ∧ s.tmr.toNat ≠ 28)) →
    step { s with pins := { s.pins with dqIn := level } } = step s

/-- The reading is written only by a good CHECK, which sets `valid` for ever after; `err` is written only at the tick a poll
ends (R21, R31, R34, R126). -/
def Obligations.ReadingChangesOnlyAtAGoodCheck : Prop :=
  ∀ s t : State, s.pins.rst = false → step s = .next t →
    (s.spd = .check → frameGood s.frame = true →
      t.hum = frameByte s.frame 0 ∧ t.temp = frameByte s.frame 2 ∧ t.valid = true ∧ t.err = .none) ∧
    (s.spd = .check → frameGood s.frame = false →
      t.hum = s.hum ∧ t.temp = s.temp ∧ t.valid = s.valid ∧ t.err = .checksumMismatch) ∧
    (s.spd ≠ .check → t.hum = s.hum ∧ t.temp = s.temp ∧ t.valid = s.valid ∧
      (t.err = s.err ∨ (t.err = .noResponse ∧ s.tmr = s.waitLast ∧
        (s.spd = .ackL1 ∨ s.spd = .ackH ∨ s.spd = .ackL2 ∨ s.spd = .bitRise ∨ s.spd = .bitFall))))

/-- A threshold changes only at the last tick of C_SET_UP or C_SET_DOWN with the button held, and then only the selected
one, by one step (R22, R30, R189 item 2). -/
def Obligations.ThresholdsChangeOnlyByAHeldButton : Prop :=
  ∀ (s t : State) (q : Quantity) (b : Bound), s.pins.rst = false → step s = .next t →
    t.threshold q b ≠ s.threshold q b →
    s.tmr.toNat = 999999 ∧ q = s.selQ ∧ b = s.selB ∧
    ((s.seq = .cSetUp ∧ s.pins.btn.getLsbD 0 = true ∧
        (t.threshold q b).toNat = (s.threshold q b).toNat + (if q = .temperature then 1 else 10)) ∨
      (s.seq = .cSetDown ∧ s.pins.btn.getLsbD 1 = true ∧
        (t.threshold q b).toNat + (if q = .temperature then 1 else 10) = (s.threshold q b).toNat))

/-- While configuring no poll is made, no alarm evaluated, no indicator changed, and the only way out is an OK found held at
the end of its settle delay, which goes to E_GATE (R160, R183, R186). -/
def Obligations.ConfiguringBlocksAndLeavesOnlyByExit : Prop :=
  ∀ s t : State, s.pins.rst = false → PollConsistent s → (isConfiguring s.seq = true ∨ s.seq = .sEntrySettle) →
    step s = .next t →
    t.spd = .idle ∧ t.frame = s.frame ∧ t.hum = s.hum ∧ t.temp = s.temp ∧ t.valid = s.valid ∧ t.err = s.err ∧
    t.alarmT = s.alarmT ∧ t.alarmH = s.alarmH ∧ t.ledAlarm = s.ledAlarm ∧ t.ledNormal = s.ledNormal ∧
    (isConfiguring s.seq = true → isConfiguring t.seq = false →
      s.seq = .cSetOk ∧ s.tmr.toNat = 999999 ∧ s.pins.btn.getLsbD 3 = true ∧ t.seq = .eGate)

/-- An alarm becomes Sustained only at A_CONF_DECIDE with three of three samples out of range, for the quantity under
evaluation (R201); its other changes are at E_GATE and A_SUST_CHK (R32). -/
def Obligations.AlarmsChangeOnlyWhereTheEvaluatorSays : Prop :=
  ∀ (s t : State) (q : Quantity), s.pins.rst = false → step s = .next t → t.alarm q ≠ s.alarm q →
    q = s.curQ ∧
    ((t.alarm q = .sustained ∧ s.seq = .aConfDecide ∧ s.oorCnt.toNat = 3) ∨
      (t.alarm q = .confirming ∧ s.seq = .eGate ∧ s.valid = true ∧ s.oor q = true) ∨
      (t.alarm q = .normal ∧ s.seq = .aConfDecide ∧ s.oorCnt.toNat ≠ 3) ∨
      (t.alarm q = .normal ∧ s.seq = .aSustChk ∧ s.oor q = false))

/-- Sustained is left only by A_SUST_CHK on a reading in range; no count, time or button ends it (R202, R258). -/
def Obligations.SustainedIsLeftOnlyInRange : Prop :=
  ∀ s t : State, s.pins.rst = false → isSustained s.seq = true → step s = .next t →
    isSustained t.seq = true ∨
      (s.seq = .aSustChk ∧ s.oor s.curQ = false ∧ t.alarm s.curQ = .normal ∧ t.ledAlarm = false ∧ t.ledNormal = true)

/-! ### Many ticks -/

/-- A quiet end of a pass takes four ticks: S_SHOW, S_ENTRY and both gates, with no trigger pending and the reading invalid or
in range (R220). -/
def Obligations.QuietPassReachesTheGapInFourTicks : Prop :=
  ∀ s : State, NoReset 4 s → PollConsistent s → s.seq = .sShow → s.curQ = .temperature →
    entryTrigger (s.edges ||| s.pend) = false →
    (s.valid = false ∨ (s.oor .temperature = false ∧ s.oor .humidity = false)) →
    ∃ t, runTicks 4 s = .next t ∧ t.seq = .sGap ∧ t.spd = .idle ∧ t.tmr = 0 ∧ t.curQ = .temperature ∧
      t.hum = s.hum ∧ t.temp = s.temp ∧ t.valid = s.valid ∧ t.alarmT = s.alarmT ∧ t.alarmH = s.alarmH

/-- A settle or refresh delay, the loop gap and the evaluator's gaps are held for exactly their ticks (R12): from the first
tick of such a state the sequencer stays in it, the timer counting, until its last tick, and leaves it then. -/
def Obligations.TimedSequencerStatesLastExactlyTheirTicks : Prop :=
  ∀ s : State, NoReset (seqTicks s) s → PollConsistent s → s.tmr = 0 →
    s.seq ∈ [SeqState.sGap, .sEntrySettle, .cDelay, .cSetMode, .cSetUp, .cSetDown, .cSetOk, .aConfGap, .aSustGap] →
    (∀ k, k < seqTicks s → ∃ t, runTicks k s = .next t ∧ t.seq = s.seq ∧ t.tmr.toNat = k) ∧
    ∃ t, runTicks (seqTicks s) s = .next t ∧ t.seq ≠ s.seq ∧ t.tmr = 0

/-- The bit decision on the waveform (R121, S2): from the tick BIT_RISE sees the rise, the bit shifted in is the level 29 ticks
later, whatever the level does between; so a pulse of exactly `d` high ticks, followed by a low that is not over before that
tick, shifts in a 1 iff `d ≥ 30`. -/
def Obligations.PulseWidthDecidesTheBit : Prop :=
  ∀ s : State, isPolling s.seq = true → s.spd = .bitRise → s.bitcnt.toNat < 63 → NoReset 30 s → s.pins.dqIn = true →
    ∃ t, runTicks 30 s = .next t ∧ t.spd = .bitFall ∧ t.tmr = 0 ∧ t.bitcnt.toNat = s.bitcnt.toNat + 1 ∧
      t.frame = s.frame.extractLsb' 0 39 ++ BitVec.ofBool (levels s 29).dqIn ∧
      ∀ d, 1 ≤ d → (∀ k, k < d → (levels s k).dqIn = true) → (∀ k, d ≤ k → k ≤ 29 → (levels s k).dqIn = false) →
        t.frame = s.frame.extractLsb' 0 39 ++ BitVec.ofBool (decide (30 ≤ d))

/-- A wait that sees the wrong level for `WAIT_TIMEOUT_TICKS` ticks ends the poll with NoResponse at the last of them, and not
before (R126, R241); the reading is kept and the caller goes on (R248). -/
def Obligations.SilentWaitEndsInNoResponse : Prop :=
  ∀ (s : State) (level : Bool), isPolling s.seq = true → awaitedLevel s.spd = some level → s.tmr = 0 →
    NoReset s.waitTimeoutTicks s → (∀ k, k < s.waitTimeoutTicks → (levels s k).dqIn = !level) →
    (∀ k, k < s.waitTimeoutTicks → ∃ t, runTicks k s = .next t ∧ t.spd = s.spd ∧ t.seq = s.seq ∧ t.tmr.toNat = k) ∧
    ∃ t, runTicks s.waitTimeoutTicks s = .next t ∧ t.spd = .idle ∧ t.err = .noResponse ∧ t.tmr = 0 ∧
      t.hum = s.hum ∧ t.temp = s.temp ∧ t.valid = s.valid ∧
      t.seq = (if s.seq = .sPoll then .sShow else if s.seq = .aConfPoll then .aConfCount else .aSustChk)

/-- Every poll ends, whatever the sensor does: from its first tick within
`20 000 + 20 + 83 · WAIT_TIMEOUT_TICKS + 40 · 29 + 1` ticks (R127, R275). -/
def Obligations.EveryPollEndsWithinItsBound : Prop :=
  ∀ s : State, Inv s → s.spd = .startLow → s.tmr = 0 →
    NoReset (20000 + 20 + 83 * s.waitTimeoutTicks + 40 * 29 + 1) s →
    ∃ k, k ≤ 20000 + 20 + 83 * s.waitTimeoutTicks + 40 * 29 + 1 ∧
      ∃ t, runTicks k s = .next t ∧ t.spd = .idle ∧
        t.seq = (if s.seq = .sPoll then .sShow else if s.seq = .aConfPoll then .aConfCount else .aSustChk)

/-- A whole poll, from the tick the pin is released: a sensor that answers with the waveform of any frame, in any readable
shape, with anything on the buttons, is read bit for bit; CHECK comes at the tick R128 gives, and one tick later a good
frame is the reading, a bad one leaves it with ChecksumMismatch (R62, R121 to R125, R128). -/
def Obligations.WholePollReadsTheFrame : Prop :=
  ∀ (s : State) (sh : Shape) (f : Frame), isPolling s.seq = true → s.spd = .ackL1 → s.tmr = 0 → s.bitcnt = 0 →
    ShapeReadable sh s.waitTimeoutTicks → NoReset (checkTick sh f + 1) s →
    (∀ k level, (answerWave sh f)[k]? = some level → (levels s k).dqIn = level) →
    (∃ t, runTicks (checkTick sh f) s = .next t ∧ t.spd = .check ∧ t.frame = f ∧ t.bitcnt.toNat = 40 ∧
      t.seq = s.seq ∧ t.hum = s.hum ∧ t.temp = s.temp ∧ t.valid = s.valid) ∧
    ∃ t, runTicks (checkTick sh f + 1) s = .next t ∧ t.spd = .idle ∧
      (frameGood f = true → t.hum = frameByte f 0 ∧ t.temp = frameByte f 2 ∧ t.valid = true ∧ t.err = .none) ∧
      (frameGood f = false → t.hum = s.hum ∧ t.temp = s.temp ∧ t.valid = s.valid ∧ t.err = .checksumMismatch)
end

