-- ==== Sys2Proof/Laws/Frame.lean ====
section
/-! SUPPORT. A frame and its five bytes are the same data (20_memory.md R62; 30_encoding.md R84). -/

namespace Sys2Proof.Laws

/-- Appending a byte multiplies by 256 and adds it. -/
theorem append_byte_toNat {n : Nat} (x : BitVec n) (y : Byte) : (x ++ y).toNat = x.toNat * 256 + y.toNat := by
  rw [BitVec.toNat_append, ← Nat.shiftLeft_add_eq_or_of_lt y.isLt, Nat.shiftLeft_eq]

/-- A frame's number from its five bytes. -/
theorem frameOf_toNat (h f t g c : Byte) :
    (frameOf h f t g c).toNat =
      (((h.toNat * 256 + f.toNat) * 256 + t.toNat) * 256 + g.toNat) * 256 + c.toNat := by
  unfold frameOf
  simp only [append_byte_toNat]

/-- A byte's number from its frame's. -/
theorem frameByte_toNat (f : Frame) (i : Fin 5) : (frameByte f i).toNat = f.toNat / 2 ^ (8 * (4 - i.val)) % 256 := by
  simp [frameByte, Nat.shiftRight_eq_div_pow]

/-- The bytes of a frame put together from bytes. -/
theorem frameByte_frameOf (h f t g c : Byte) :
    frameByte (frameOf h f t g c) 0 = h ∧ frameByte (frameOf h f t g c) 1 = f ∧ frameByte (frameOf h f t g c) 2 = t ∧
    frameByte (frameOf h f t g c) 3 = g ∧ frameByte (frameOf h f t g c) 4 = c := by
  have h1 := h.isLt
  have h2 := f.isLt
  have h3 := t.isLt
  have h4 := g.isLt
  have h5 := c.isLt
  refine ⟨?_, ?_, ?_, ?_, ?_⟩ <;> apply BitVec.eq_of_toNat_eq <;> rw [frameByte_toNat, frameOf_toNat] <;> simp <;> omega

/-- A frame is put together from its bytes. -/
theorem frameOf_frameByte (f : Frame) :
    frameOf (frameByte f 0) (frameByte f 1) (frameByte f 2) (frameByte f 3) (frameByte f 4) = f := by
  have h := f.isLt
  apply BitVec.eq_of_toNat_eq
  rw [frameOf_toNat]
  simp only [frameByte_toNat]
  simp
  omega

end Sys2Proof.Laws
end

