-- ==== Sys2Proof/Laws/State.lean ====
section
/-! SUPPORT. One lemma per field per update of the state, each true by `rfl`, so that no proof unfolds a record update; and the
two updates that choose their field by a quantity. -/

namespace Sys2Proof.Machine.State

/-! ### `goSeq` -/

@[simp] theorem goSeq_hum (s : State) (q : SeqState) : (s.goSeq q).hum = s.hum := rfl
@[simp] theorem goSeq_temp (s : State) (q : SeqState) : (s.goSeq q).temp = s.temp := rfl
@[simp] theorem goSeq_valid (s : State) (q : SeqState) : (s.goSeq q).valid = s.valid := rfl
@[simp] theorem goSeq_tempHigh (s : State) (q : SeqState) : (s.goSeq q).tempHigh = s.tempHigh := rfl
@[simp] theorem goSeq_tempLow (s : State) (q : SeqState) : (s.goSeq q).tempLow = s.tempLow := rfl
@[simp] theorem goSeq_humHigh (s : State) (q : SeqState) : (s.goSeq q).humHigh = s.humHigh := rfl
@[simp] theorem goSeq_humLow (s : State) (q : SeqState) : (s.goSeq q).humLow = s.humLow := rfl
@[simp] theorem goSeq_frame (s : State) (q : SeqState) : (s.goSeq q).frame = s.frame := rfl
@[simp] theorem goSeq_bitcnt (s : State) (q : SeqState) : (s.goSeq q).bitcnt = s.bitcnt := rfl
@[simp] theorem goSeq_seq (s : State) (q : SeqState) : (s.goSeq q).seq = q := rfl
@[simp] theorem goSeq_spd (s : State) (q : SeqState) : (s.goSeq q).spd = s.spd := rfl
@[simp] theorem goSeq_tmr (s : State) (q : SeqState) : (s.goSeq q).tmr = 0 := rfl
@[simp] theorem goSeq_curQ (s : State) (q : SeqState) : (s.goSeq q).curQ = s.curQ := rfl
@[simp] theorem goSeq_oorCnt (s : State) (q : SeqState) : (s.goSeq q).oorCnt = s.oorCnt := rfl
@[simp] theorem goSeq_sampIdx (s : State) (q : SeqState) : (s.goSeq q).sampIdx = s.sampIdx := rfl
@[simp] theorem goSeq_selQ (s : State) (q : SeqState) : (s.goSeq q).selQ = s.selQ := rfl
@[simp] theorem goSeq_selB (s : State) (q : SeqState) : (s.goSeq q).selB = s.selB := rfl
@[simp] theorem goSeq_err (s : State) (q : SeqState) : (s.goSeq q).err = s.err := rfl
@[simp] theorem goSeq_alarmT (s : State) (q : SeqState) : (s.goSeq q).alarmT = s.alarmT := rfl
@[simp] theorem goSeq_alarmH (s : State) (q : SeqState) : (s.goSeq q).alarmH = s.alarmH := rfl
@[simp] theorem goSeq_pend (s : State) (q : SeqState) : (s.goSeq q).pend = s.pend := rfl
@[simp] theorem goSeq_btnPrev (s : State) (q : SeqState) : (s.goSeq q).btnPrev = s.btnPrev := rfl
@[simp] theorem goSeq_ledAlarm (s : State) (q : SeqState) : (s.goSeq q).ledAlarm = s.ledAlarm := rfl
@[simp] theorem goSeq_ledNormal (s : State) (q : SeqState) : (s.goSeq q).ledNormal = s.ledNormal := rfl
@[simp] theorem goSeq_waitLast (s : State) (q : SeqState) : (s.goSeq q).waitLast = s.waitLast := rfl
@[simp] theorem goSeq_loopGapLast (s : State) (q : SeqState) : (s.goSeq q).loopGapLast = s.loopGapLast := rfl
@[simp] theorem goSeq_pins (s : State) (q : SeqState) : (s.goSeq q).pins = s.pins := rfl
@[simp] theorem goSeq_stim (s : State) (q : SeqState) : (s.goSeq q).stim = s.stim := rfl
@[simp] theorem goSeq_tick (s : State) (q : SeqState) : (s.goSeq q).tick = s.tick := rfl

/-! ### `goSpd` -/

@[simp] theorem goSpd_hum (s : State) (p : SpdState) : (s.goSpd p).hum = s.hum := rfl
@[simp] theorem goSpd_temp (s : State) (p : SpdState) : (s.goSpd p).temp = s.temp := rfl
@[simp] theorem goSpd_valid (s : State) (p : SpdState) : (s.goSpd p).valid = s.valid := rfl
@[simp] theorem goSpd_tempHigh (s : State) (p : SpdState) : (s.goSpd p).tempHigh = s.tempHigh := rfl
@[simp] theorem goSpd_tempLow (s : State) (p : SpdState) : (s.goSpd p).tempLow = s.tempLow := rfl
@[simp] theorem goSpd_humHigh (s : State) (p : SpdState) : (s.goSpd p).humHigh = s.humHigh := rfl
@[simp] theorem goSpd_humLow (s : State) (p : SpdState) : (s.goSpd p).humLow = s.humLow := rfl
@[simp] theorem goSpd_frame (s : State) (p : SpdState) : (s.goSpd p).frame = s.frame := rfl
@[simp] theorem goSpd_bitcnt (s : State) (p : SpdState) : (s.goSpd p).bitcnt = s.bitcnt := rfl
@[simp] theorem goSpd_seq (s : State) (p : SpdState) : (s.goSpd p).seq = s.seq := rfl
@[simp] theorem goSpd_spd (s : State) (p : SpdState) : (s.goSpd p).spd = p := rfl
@[simp] theorem goSpd_tmr (s : State) (p : SpdState) : (s.goSpd p).tmr = 0 := rfl
@[simp] theorem goSpd_curQ (s : State) (p : SpdState) : (s.goSpd p).curQ = s.curQ := rfl
@[simp] theorem goSpd_oorCnt (s : State) (p : SpdState) : (s.goSpd p).oorCnt = s.oorCnt := rfl
@[simp] theorem goSpd_sampIdx (s : State) (p : SpdState) : (s.goSpd p).sampIdx = s.sampIdx := rfl
@[simp] theorem goSpd_selQ (s : State) (p : SpdState) : (s.goSpd p).selQ = s.selQ := rfl
@[simp] theorem goSpd_selB (s : State) (p : SpdState) : (s.goSpd p).selB = s.selB := rfl
@[simp] theorem goSpd_err (s : State) (p : SpdState) : (s.goSpd p).err = s.err := rfl
@[simp] theorem goSpd_alarmT (s : State) (p : SpdState) : (s.goSpd p).alarmT = s.alarmT := rfl
@[simp] theorem goSpd_alarmH (s : State) (p : SpdState) : (s.goSpd p).alarmH = s.alarmH := rfl
@[simp] theorem goSpd_pend (s : State) (p : SpdState) : (s.goSpd p).pend = s.pend := rfl
@[simp] theorem goSpd_btnPrev (s : State) (p : SpdState) : (s.goSpd p).btnPrev = s.btnPrev := rfl
@[simp] theorem goSpd_ledAlarm (s : State) (p : SpdState) : (s.goSpd p).ledAlarm = s.ledAlarm := rfl
@[simp] theorem goSpd_ledNormal (s : State) (p : SpdState) : (s.goSpd p).ledNormal = s.ledNormal := rfl
@[simp] theorem goSpd_waitLast (s : State) (p : SpdState) : (s.goSpd p).waitLast = s.waitLast := rfl
@[simp] theorem goSpd_loopGapLast (s : State) (p : SpdState) : (s.goSpd p).loopGapLast = s.loopGapLast := rfl
@[simp] theorem goSpd_pins (s : State) (p : SpdState) : (s.goSpd p).pins = s.pins := rfl
@[simp] theorem goSpd_stim (s : State) (p : SpdState) : (s.goSpd p).stim = s.stim := rfl
@[simp] theorem goSpd_tick (s : State) (p : SpdState) : (s.goSpd p).tick = s.tick := rfl

/-! ### `countTick` -/

@[simp] theorem countTick_hum (s : State) : (s.countTick).hum = s.hum := rfl
@[simp] theorem countTick_temp (s : State) : (s.countTick).temp = s.temp := rfl
@[simp] theorem countTick_valid (s : State) : (s.countTick).valid = s.valid := rfl
@[simp] theorem countTick_tempHigh (s : State) : (s.countTick).tempHigh = s.tempHigh := rfl
@[simp] theorem countTick_tempLow (s : State) : (s.countTick).tempLow = s.tempLow := rfl
@[simp] theorem countTick_humHigh (s : State) : (s.countTick).humHigh = s.humHigh := rfl
@[simp] theorem countTick_humLow (s : State) : (s.countTick).humLow = s.humLow := rfl
@[simp] theorem countTick_frame (s : State) : (s.countTick).frame = s.frame := rfl
@[simp] theorem countTick_bitcnt (s : State) : (s.countTick).bitcnt = s.bitcnt := rfl
@[simp] theorem countTick_seq (s : State) : (s.countTick).seq = s.seq := rfl
@[simp] theorem countTick_spd (s : State) : (s.countTick).spd = s.spd := rfl
@[simp] theorem countTick_tmr (s : State) : (s.countTick).tmr = nextTmr s.tmr := rfl
@[simp] theorem countTick_curQ (s : State) : (s.countTick).curQ = s.curQ := rfl
@[simp] theorem countTick_oorCnt (s : State) : (s.countTick).oorCnt = s.oorCnt := rfl
@[simp] theorem countTick_sampIdx (s : State) : (s.countTick).sampIdx = s.sampIdx := rfl
@[simp] theorem countTick_selQ (s : State) : (s.countTick).selQ = s.selQ := rfl
@[simp] theorem countTick_selB (s : State) : (s.countTick).selB = s.selB := rfl
@[simp] theorem countTick_err (s : State) : (s.countTick).err = s.err := rfl
@[simp] theorem countTick_alarmT (s : State) : (s.countTick).alarmT = s.alarmT := rfl
@[simp] theorem countTick_alarmH (s : State) : (s.countTick).alarmH = s.alarmH := rfl
@[simp] theorem countTick_pend (s : State) : (s.countTick).pend = s.pend := rfl
@[simp] theorem countTick_btnPrev (s : State) : (s.countTick).btnPrev = s.btnPrev := rfl
@[simp] theorem countTick_ledAlarm (s : State) : (s.countTick).ledAlarm = s.ledAlarm := rfl
@[simp] theorem countTick_ledNormal (s : State) : (s.countTick).ledNormal = s.ledNormal := rfl
@[simp] theorem countTick_waitLast (s : State) : (s.countTick).waitLast = s.waitLast := rfl
@[simp] theorem countTick_loopGapLast (s : State) : (s.countTick).loopGapLast = s.loopGapLast := rfl
@[simp] theorem countTick_pins (s : State) : (s.countTick).pins = s.pins := rfl
@[simp] theorem countTick_stim (s : State) : (s.countTick).stim = s.stim := rfl
@[simp] theorem countTick_tick (s : State) : (s.countTick).tick = s.tick := rfl

/-! ### `endPoll` -/

@[simp] theorem endPoll_hum (s : State) (e : PollError) : (s.endPoll e).hum = s.hum := rfl
@[simp] theorem endPoll_temp (s : State) (e : PollError) : (s.endPoll e).temp = s.temp := rfl
@[simp] theorem endPoll_valid (s : State) (e : PollError) : (s.endPoll e).valid = s.valid := rfl
@[simp] theorem endPoll_tempHigh (s : State) (e : PollError) : (s.endPoll e).tempHigh = s.tempHigh := rfl
@[simp] theorem endPoll_tempLow (s : State) (e : PollError) : (s.endPoll e).tempLow = s.tempLow := rfl
@[simp] theorem endPoll_humHigh (s : State) (e : PollError) : (s.endPoll e).humHigh = s.humHigh := rfl
@[simp] theorem endPoll_humLow (s : State) (e : PollError) : (s.endPoll e).humLow = s.humLow := rfl
@[simp] theorem endPoll_frame (s : State) (e : PollError) : (s.endPoll e).frame = s.frame := rfl
@[simp] theorem endPoll_bitcnt (s : State) (e : PollError) : (s.endPoll e).bitcnt = s.bitcnt := rfl
@[simp] theorem endPoll_seq (s : State) (e : PollError) : (s.endPoll e).seq = s.seq := rfl
@[simp] theorem endPoll_spd (s : State) (e : PollError) : (s.endPoll e).spd = .idle := rfl
@[simp] theorem endPoll_tmr (s : State) (e : PollError) : (s.endPoll e).tmr = 0 := rfl
@[simp] theorem endPoll_curQ (s : State) (e : PollError) : (s.endPoll e).curQ = s.curQ := rfl
@[simp] theorem endPoll_oorCnt (s : State) (e : PollError) : (s.endPoll e).oorCnt = s.oorCnt := rfl
@[simp] theorem endPoll_sampIdx (s : State) (e : PollError) : (s.endPoll e).sampIdx = s.sampIdx := rfl
@[simp] theorem endPoll_selQ (s : State) (e : PollError) : (s.endPoll e).selQ = s.selQ := rfl
@[simp] theorem endPoll_selB (s : State) (e : PollError) : (s.endPoll e).selB = s.selB := rfl
@[simp] theorem endPoll_err (s : State) (e : PollError) : (s.endPoll e).err = e := rfl
@[simp] theorem endPoll_alarmT (s : State) (e : PollError) : (s.endPoll e).alarmT = s.alarmT := rfl
@[simp] theorem endPoll_alarmH (s : State) (e : PollError) : (s.endPoll e).alarmH = s.alarmH := rfl
@[simp] theorem endPoll_pend (s : State) (e : PollError) : (s.endPoll e).pend = s.pend := rfl
@[simp] theorem endPoll_btnPrev (s : State) (e : PollError) : (s.endPoll e).btnPrev = s.btnPrev := rfl
@[simp] theorem endPoll_ledAlarm (s : State) (e : PollError) : (s.endPoll e).ledAlarm = s.ledAlarm := rfl
@[simp] theorem endPoll_ledNormal (s : State) (e : PollError) : (s.endPoll e).ledNormal = s.ledNormal := rfl
@[simp] theorem endPoll_waitLast (s : State) (e : PollError) : (s.endPoll e).waitLast = s.waitLast := rfl
@[simp] theorem endPoll_loopGapLast (s : State) (e : PollError) : (s.endPoll e).loopGapLast = s.loopGapLast := rfl
@[simp] theorem endPoll_pins (s : State) (e : PollError) : (s.endPoll e).pins = s.pins := rfl
@[simp] theorem endPoll_stim (s : State) (e : PollError) : (s.endPoll e).stim = s.stim := rfl
@[simp] theorem endPoll_tick (s : State) (e : PollError) : (s.endPoll e).tick = s.tick := rfl

/-! ### `startPoll` -/

@[simp] theorem startPoll_hum (s : State) (q : SeqState) : (s.startPoll q).hum = s.hum := rfl
@[simp] theorem startPoll_temp (s : State) (q : SeqState) : (s.startPoll q).temp = s.temp := rfl
@[simp] theorem startPoll_valid (s : State) (q : SeqState) : (s.startPoll q).valid = s.valid := rfl
@[simp] theorem startPoll_tempHigh (s : State) (q : SeqState) : (s.startPoll q).tempHigh = s.tempHigh := rfl
@[simp] theorem startPoll_tempLow (s : State) (q : SeqState) : (s.startPoll q).tempLow = s.tempLow := rfl
@[simp] theorem startPoll_humHigh (s : State) (q : SeqState) : (s.startPoll q).humHigh = s.humHigh := rfl
@[simp] theorem startPoll_humLow (s : State) (q : SeqState) : (s.startPoll q).humLow = s.humLow := rfl
@[simp] theorem startPoll_frame (s : State) (q : SeqState) : (s.startPoll q).frame = 0 := rfl
@[simp] theorem startPoll_bitcnt (s : State) (q : SeqState) : (s.startPoll q).bitcnt = 0 := rfl
@[simp] theorem startPoll_seq (s : State) (q : SeqState) : (s.startPoll q).seq = q := rfl
@[simp] theorem startPoll_spd (s : State) (q : SeqState) : (s.startPoll q).spd = .startLow := rfl
@[simp] theorem startPoll_tmr (s : State) (q : SeqState) : (s.startPoll q).tmr = 0 := rfl
@[simp] theorem startPoll_curQ (s : State) (q : SeqState) : (s.startPoll q).curQ = s.curQ := rfl
@[simp] theorem startPoll_oorCnt (s : State) (q : SeqState) : (s.startPoll q).oorCnt = s.oorCnt := rfl
@[simp] theorem startPoll_sampIdx (s : State) (q : SeqState) : (s.startPoll q).sampIdx = s.sampIdx := rfl
@[simp] theorem startPoll_selQ (s : State) (q : SeqState) : (s.startPoll q).selQ = s.selQ := rfl
@[simp] theorem startPoll_selB (s : State) (q : SeqState) : (s.startPoll q).selB = s.selB := rfl
@[simp] theorem startPoll_err (s : State) (q : SeqState) : (s.startPoll q).err = s.err := rfl
@[simp] theorem startPoll_alarmT (s : State) (q : SeqState) : (s.startPoll q).alarmT = s.alarmT := rfl
@[simp] theorem startPoll_alarmH (s : State) (q : SeqState) : (s.startPoll q).alarmH = s.alarmH := rfl
@[simp] theorem startPoll_pend (s : State) (q : SeqState) : (s.startPoll q).pend = s.pend := rfl
@[simp] theorem startPoll_btnPrev (s : State) (q : SeqState) : (s.startPoll q).btnPrev = s.btnPrev := rfl
@[simp] theorem startPoll_ledAlarm (s : State) (q : SeqState) : (s.startPoll q).ledAlarm = s.ledAlarm := rfl
@[simp] theorem startPoll_ledNormal (s : State) (q : SeqState) : (s.startPoll q).ledNormal = s.ledNormal := rfl
@[simp] theorem startPoll_waitLast (s : State) (q : SeqState) : (s.startPoll q).waitLast = s.waitLast := rfl
@[simp] theorem startPoll_loopGapLast (s : State) (q : SeqState) : (s.startPoll q).loopGapLast = s.loopGapLast := rfl
@[simp] theorem startPoll_pins (s : State) (q : SeqState) : (s.startPoll q).pins = s.pins := rfl
@[simp] theorem startPoll_stim (s : State) (q : SeqState) : (s.startPoll q).stim = s.stim := rfl
@[simp] theorem startPoll_tick (s : State) (q : SeqState) : (s.startPoll q).tick = s.tick := rfl

/-! ### `sample` -/

@[simp] theorem sample_hum (s : State) : (s.sample).hum = s.hum := rfl
@[simp] theorem sample_temp (s : State) : (s.sample).temp = s.temp := rfl
@[simp] theorem sample_valid (s : State) : (s.sample).valid = s.valid := rfl
@[simp] theorem sample_tempHigh (s : State) : (s.sample).tempHigh = s.tempHigh := rfl
@[simp] theorem sample_tempLow (s : State) : (s.sample).tempLow = s.tempLow := rfl
@[simp] theorem sample_humHigh (s : State) : (s.sample).humHigh = s.humHigh := rfl
@[simp] theorem sample_humLow (s : State) : (s.sample).humLow = s.humLow := rfl
@[simp] theorem sample_frame (s : State) : (s.sample).frame = shiftIn s.frame s.pins.dqIn := rfl
@[simp] theorem sample_bitcnt (s : State) : (s.sample).bitcnt = nextBitcnt s.bitcnt := rfl
@[simp] theorem sample_seq (s : State) : (s.sample).seq = s.seq := rfl
@[simp] theorem sample_spd (s : State) : (s.sample).spd = s.spd := rfl
@[simp] theorem sample_tmr (s : State) : (s.sample).tmr = s.tmr := rfl
@[simp] theorem sample_curQ (s : State) : (s.sample).curQ = s.curQ := rfl
@[simp] theorem sample_oorCnt (s : State) : (s.sample).oorCnt = s.oorCnt := rfl
@[simp] theorem sample_sampIdx (s : State) : (s.sample).sampIdx = s.sampIdx := rfl
@[simp] theorem sample_selQ (s : State) : (s.sample).selQ = s.selQ := rfl
@[simp] theorem sample_selB (s : State) : (s.sample).selB = s.selB := rfl
@[simp] theorem sample_err (s : State) : (s.sample).err = s.err := rfl
@[simp] theorem sample_alarmT (s : State) : (s.sample).alarmT = s.alarmT := rfl
@[simp] theorem sample_alarmH (s : State) : (s.sample).alarmH = s.alarmH := rfl
@[simp] theorem sample_pend (s : State) : (s.sample).pend = s.pend := rfl
@[simp] theorem sample_btnPrev (s : State) : (s.sample).btnPrev = s.btnPrev := rfl
@[simp] theorem sample_ledAlarm (s : State) : (s.sample).ledAlarm = s.ledAlarm := rfl
@[simp] theorem sample_ledNormal (s : State) : (s.sample).ledNormal = s.ledNormal := rfl
@[simp] theorem sample_waitLast (s : State) : (s.sample).waitLast = s.waitLast := rfl
@[simp] theorem sample_loopGapLast (s : State) : (s.sample).loopGapLast = s.loopGapLast := rfl
@[simp] theorem sample_pins (s : State) : (s.sample).pins = s.pins := rfl
@[simp] theorem sample_stim (s : State) : (s.sample).stim = s.stim := rfl
@[simp] theorem sample_tick (s : State) : (s.sample).tick = s.tick := rfl

/-! ### `clearPend` -/

@[simp] theorem clearPend_hum (s : State) (clr : Buttons) : (s.clearPend clr).hum = s.hum := rfl
@[simp] theorem clearPend_temp (s : State) (clr : Buttons) : (s.clearPend clr).temp = s.temp := rfl
@[simp] theorem clearPend_valid (s : State) (clr : Buttons) : (s.clearPend clr).valid = s.valid := rfl
@[simp] theorem clearPend_tempHigh (s : State) (clr : Buttons) : (s.clearPend clr).tempHigh = s.tempHigh := rfl
@[simp] theorem clearPend_tempLow (s : State) (clr : Buttons) : (s.clearPend clr).tempLow = s.tempLow := rfl
@[simp] theorem clearPend_humHigh (s : State) (clr : Buttons) : (s.clearPend clr).humHigh = s.humHigh := rfl
@[simp] theorem clearPend_humLow (s : State) (clr : Buttons) : (s.clearPend clr).humLow = s.humLow := rfl
@[simp] theorem clearPend_frame (s : State) (clr : Buttons) : (s.clearPend clr).frame = s.frame := rfl
@[simp] theorem clearPend_bitcnt (s : State) (clr : Buttons) : (s.clearPend clr).bitcnt = s.bitcnt := rfl
@[simp] theorem clearPend_seq (s : State) (clr : Buttons) : (s.clearPend clr).seq = s.seq := rfl
@[simp] theorem clearPend_spd (s : State) (clr : Buttons) : (s.clearPend clr).spd = s.spd := rfl
@[simp] theorem clearPend_tmr (s : State) (clr : Buttons) : (s.clearPend clr).tmr = s.tmr := rfl
@[simp] theorem clearPend_curQ (s : State) (clr : Buttons) : (s.clearPend clr).curQ = s.curQ := rfl
@[simp] theorem clearPend_oorCnt (s : State) (clr : Buttons) : (s.clearPend clr).oorCnt = s.oorCnt := rfl
@[simp] theorem clearPend_sampIdx (s : State) (clr : Buttons) : (s.clearPend clr).sampIdx = s.sampIdx := rfl
@[simp] theorem clearPend_selQ (s : State) (clr : Buttons) : (s.clearPend clr).selQ = s.selQ := rfl
@[simp] theorem clearPend_selB (s : State) (clr : Buttons) : (s.clearPend clr).selB = s.selB := rfl
@[simp] theorem clearPend_err (s : State) (clr : Buttons) : (s.clearPend clr).err = s.err := rfl
@[simp] theorem clearPend_alarmT (s : State) (clr : Buttons) : (s.clearPend clr).alarmT = s.alarmT := rfl
@[simp] theorem clearPend_alarmH (s : State) (clr : Buttons) : (s.clearPend clr).alarmH = s.alarmH := rfl
@[simp] theorem clearPend_pend (s : State) (clr : Buttons) : (s.clearPend clr).pend = s.pend &&& ~~~clr := rfl
@[simp] theorem clearPend_btnPrev (s : State) (clr : Buttons) : (s.clearPend clr).btnPrev = s.btnPrev := rfl
@[simp] theorem clearPend_ledAlarm (s : State) (clr : Buttons) : (s.clearPend clr).ledAlarm = s.ledAlarm := rfl
@[simp] theorem clearPend_ledNormal (s : State) (clr : Buttons) : (s.clearPend clr).ledNormal = s.ledNormal := rfl
@[simp] theorem clearPend_waitLast (s : State) (clr : Buttons) : (s.clearPend clr).waitLast = s.waitLast := rfl
@[simp] theorem clearPend_loopGapLast (s : State) (clr : Buttons) : (s.clearPend clr).loopGapLast = s.loopGapLast := rfl
@[simp] theorem clearPend_pins (s : State) (clr : Buttons) : (s.clearPend clr).pins = s.pins := rfl
@[simp] theorem clearPend_stim (s : State) (clr : Buttons) : (s.clearPend clr).stim = s.stim := rfl
@[simp] theorem clearPend_tick (s : State) (clr : Buttons) : (s.clearPend clr).tick = s.tick := rfl

/-! ### `enter` -/

@[simp] theorem enter_hum (s : State) (p : Buttons) : (s.enter p).hum = s.hum := rfl
@[simp] theorem enter_temp (s : State) (p : Buttons) : (s.enter p).temp = s.temp := rfl
@[simp] theorem enter_valid (s : State) (p : Buttons) : (s.enter p).valid = s.valid := rfl
@[simp] theorem enter_tempHigh (s : State) (p : Buttons) : (s.enter p).tempHigh = s.tempHigh := rfl
@[simp] theorem enter_tempLow (s : State) (p : Buttons) : (s.enter p).tempLow = s.tempLow := rfl
@[simp] theorem enter_humHigh (s : State) (p : Buttons) : (s.enter p).humHigh = s.humHigh := rfl
@[simp] theorem enter_humLow (s : State) (p : Buttons) : (s.enter p).humLow = s.humLow := rfl
@[simp] theorem enter_frame (s : State) (p : Buttons) : (s.enter p).frame = s.frame := rfl
@[simp] theorem enter_bitcnt (s : State) (p : Buttons) : (s.enter p).bitcnt = s.bitcnt := rfl
@[simp] theorem enter_seq (s : State) (p : Buttons) : (s.enter p).seq = .sEntrySettle := rfl
@[simp] theorem enter_spd (s : State) (p : Buttons) : (s.enter p).spd = s.spd := rfl
@[simp] theorem enter_tmr (s : State) (p : Buttons) : (s.enter p).tmr = 0 := rfl
@[simp] theorem enter_curQ (s : State) (p : Buttons) : (s.enter p).curQ = s.curQ := rfl
@[simp] theorem enter_oorCnt (s : State) (p : Buttons) : (s.enter p).oorCnt = s.oorCnt := rfl
@[simp] theorem enter_sampIdx (s : State) (p : Buttons) : (s.enter p).sampIdx = s.sampIdx := rfl
@[simp] theorem enter_selQ (s : State) (p : Buttons) : (s.enter p).selQ = s.selQ := rfl
@[simp] theorem enter_selB (s : State) (p : Buttons) : (s.enter p).selB = s.selB := rfl
@[simp] theorem enter_err (s : State) (p : Buttons) : (s.enter p).err = s.err := rfl
@[simp] theorem enter_alarmT (s : State) (p : Buttons) : (s.enter p).alarmT = s.alarmT := rfl
@[simp] theorem enter_alarmH (s : State) (p : Buttons) : (s.enter p).alarmH = s.alarmH := rfl
@[simp] theorem enter_pend (s : State) (p : Buttons) : (s.enter p).pend = s.pend &&& ~~~enterClears p := rfl
@[simp] theorem enter_btnPrev (s : State) (p : Buttons) : (s.enter p).btnPrev = s.btnPrev := rfl
@[simp] theorem enter_ledAlarm (s : State) (p : Buttons) : (s.enter p).ledAlarm = s.ledAlarm := rfl
@[simp] theorem enter_ledNormal (s : State) (p : Buttons) : (s.enter p).ledNormal = s.ledNormal := rfl
@[simp] theorem enter_waitLast (s : State) (p : Buttons) : (s.enter p).waitLast = s.waitLast := rfl
@[simp] theorem enter_loopGapLast (s : State) (p : Buttons) : (s.enter p).loopGapLast = s.loopGapLast := rfl
@[simp] theorem enter_pins (s : State) (p : Buttons) : (s.enter p).pins = s.pins := rfl
@[simp] theorem enter_stim (s : State) (p : Buttons) : (s.enter p).stim = s.stim := rfl
@[simp] theorem enter_tick (s : State) (p : Buttons) : (s.enter p).tick = s.tick := rfl

/-! ### `notify` -/

@[simp] theorem notify_hum (s t : State) : (s.notify t).hum = t.hum := rfl
@[simp] theorem notify_temp (s t : State) : (s.notify t).temp = t.temp := rfl
@[simp] theorem notify_valid (s t : State) : (s.notify t).valid = t.valid := rfl
@[simp] theorem notify_tempHigh (s t : State) : (s.notify t).tempHigh = t.tempHigh := rfl
@[simp] theorem notify_tempLow (s t : State) : (s.notify t).tempLow = t.tempLow := rfl
@[simp] theorem notify_humHigh (s t : State) : (s.notify t).humHigh = t.humHigh := rfl
@[simp] theorem notify_humLow (s t : State) : (s.notify t).humLow = t.humLow := rfl
@[simp] theorem notify_frame (s t : State) : (s.notify t).frame = t.frame := rfl
@[simp] theorem notify_bitcnt (s t : State) : (s.notify t).bitcnt = t.bitcnt := rfl
@[simp] theorem notify_seq (s t : State) : (s.notify t).seq = t.seq := rfl
@[simp] theorem notify_spd (s t : State) : (s.notify t).spd = t.spd := rfl
@[simp] theorem notify_tmr (s t : State) : (s.notify t).tmr = t.tmr := rfl
@[simp] theorem notify_curQ (s t : State) : (s.notify t).curQ = t.curQ := rfl
@[simp] theorem notify_oorCnt (s t : State) : (s.notify t).oorCnt = t.oorCnt := rfl
@[simp] theorem notify_sampIdx (s t : State) : (s.notify t).sampIdx = t.sampIdx := rfl
@[simp] theorem notify_selQ (s t : State) : (s.notify t).selQ = t.selQ := rfl
@[simp] theorem notify_selB (s t : State) : (s.notify t).selB = t.selB := rfl
@[simp] theorem notify_err (s t : State) : (s.notify t).err = t.err := rfl
@[simp] theorem notify_alarmT (s t : State) : (s.notify t).alarmT = t.alarmT := rfl
@[simp] theorem notify_alarmH (s t : State) : (s.notify t).alarmH = t.alarmH := rfl
@[simp] theorem notify_pend (s t : State) : (s.notify t).pend = s.edges ||| t.pend := rfl
@[simp] theorem notify_btnPrev (s t : State) : (s.notify t).btnPrev = s.pins.btn := rfl
@[simp] theorem notify_ledAlarm (s t : State) : (s.notify t).ledAlarm = t.ledAlarm := rfl
@[simp] theorem notify_ledNormal (s t : State) : (s.notify t).ledNormal = t.ledNormal := rfl
@[simp] theorem notify_waitLast (s t : State) : (s.notify t).waitLast = t.waitLast := rfl
@[simp] theorem notify_loopGapLast (s t : State) : (s.notify t).loopGapLast = t.loopGapLast := rfl
@[simp] theorem notify_pins (s t : State) : (s.notify t).pins = t.pins := rfl
@[simp] theorem notify_stim (s t : State) : (s.notify t).stim = t.stim := rfl
@[simp] theorem notify_tick (s t : State) : (s.notify t).tick = t.tick := rfl

/-! ### `passTime` -/

@[simp] theorem passTime_hum (s t : State) : (s.passTime t).hum = t.hum := rfl
@[simp] theorem passTime_temp (s t : State) : (s.passTime t).temp = t.temp := rfl
@[simp] theorem passTime_valid (s t : State) : (s.passTime t).valid = t.valid := rfl
@[simp] theorem passTime_tempHigh (s t : State) : (s.passTime t).tempHigh = t.tempHigh := rfl
@[simp] theorem passTime_tempLow (s t : State) : (s.passTime t).tempLow = t.tempLow := rfl
@[simp] theorem passTime_humHigh (s t : State) : (s.passTime t).humHigh = t.humHigh := rfl
@[simp] theorem passTime_humLow (s t : State) : (s.passTime t).humLow = t.humLow := rfl
@[simp] theorem passTime_frame (s t : State) : (s.passTime t).frame = t.frame := rfl
@[simp] theorem passTime_bitcnt (s t : State) : (s.passTime t).bitcnt = t.bitcnt := rfl
@[simp] theorem passTime_seq (s t : State) : (s.passTime t).seq = t.seq := rfl
@[simp] theorem passTime_spd (s t : State) : (s.passTime t).spd = t.spd := rfl
@[simp] theorem passTime_tmr (s t : State) : (s.passTime t).tmr = t.tmr := rfl
@[simp] theorem passTime_curQ (s t : State) : (s.passTime t).curQ = t.curQ := rfl
@[simp] theorem passTime_oorCnt (s t : State) : (s.passTime t).oorCnt = t.oorCnt := rfl
@[simp] theorem passTime_sampIdx (s t : State) : (s.passTime t).sampIdx = t.sampIdx := rfl
@[simp] theorem passTime_selQ (s t : State) : (s.passTime t).selQ = t.selQ := rfl
@[simp] theorem passTime_selB (s t : State) : (s.passTime t).selB = t.selB := rfl
@[simp] theorem passTime_err (s t : State) : (s.passTime t).err = t.err := rfl
@[simp] theorem passTime_alarmT (s t : State) : (s.passTime t).alarmT = t.alarmT := rfl
@[simp] theorem passTime_alarmH (s t : State) : (s.passTime t).alarmH = t.alarmH := rfl
@[simp] theorem passTime_pend (s t : State) : (s.passTime t).pend = t.pend := rfl
@[simp] theorem passTime_btnPrev (s t : State) : (s.passTime t).btnPrev = t.btnPrev := rfl
@[simp] theorem passTime_ledAlarm (s t : State) : (s.passTime t).ledAlarm = t.ledAlarm := rfl
@[simp] theorem passTime_ledNormal (s t : State) : (s.passTime t).ledNormal = t.ledNormal := rfl
@[simp] theorem passTime_waitLast (s t : State) : (s.passTime t).waitLast = t.waitLast := rfl
@[simp] theorem passTime_loopGapLast (s t : State) : (s.passTime t).loopGapLast = t.loopGapLast := rfl
@[simp] theorem passTime_pins (s t : State) : (s.passTime t).pins = s.nextPins := rfl
@[simp] theorem passTime_stim (s t : State) : (s.passTime t).stim = s.stim.tail := rfl
@[simp] theorem passTime_tick (s t : State) : (s.passTime t).tick = s.tick + 1 := rfl

/-! ### `resetRegisters` -/

@[simp] theorem resetRegisters_hum (s : State) : (s.resetRegisters).hum = 0 := rfl
@[simp] theorem resetRegisters_temp (s : State) : (s.resetRegisters).temp = 0 := rfl
@[simp] theorem resetRegisters_valid (s : State) : (s.resetRegisters).valid = false := rfl
@[simp] theorem resetRegisters_tempHigh (s : State) : (s.resetRegisters).tempHigh = 30 := rfl
@[simp] theorem resetRegisters_tempLow (s : State) : (s.resetRegisters).tempLow = 20 := rfl
@[simp] theorem resetRegisters_humHigh (s : State) : (s.resetRegisters).humHigh = 70 := rfl
@[simp] theorem resetRegisters_humLow (s : State) : (s.resetRegisters).humLow = 50 := rfl
@[simp] theorem resetRegisters_frame (s : State) : (s.resetRegisters).frame = 0 := rfl
@[simp] theorem resetRegisters_bitcnt (s : State) : (s.resetRegisters).bitcnt = 0 := rfl
@[simp] theorem resetRegisters_seq (s : State) : (s.resetRegisters).seq = .sGap := rfl
@[simp] theorem resetRegisters_spd (s : State) : (s.resetRegisters).spd = .idle := rfl
@[simp] theorem resetRegisters_tmr (s : State) : (s.resetRegisters).tmr = 0 := rfl
@[simp] theorem resetRegisters_curQ (s : State) : (s.resetRegisters).curQ = .temperature := rfl
@[simp] theorem resetRegisters_oorCnt (s : State) : (s.resetRegisters).oorCnt = 0 := rfl
@[simp] theorem resetRegisters_sampIdx (s : State) : (s.resetRegisters).sampIdx = 0 := rfl
@[simp] theorem resetRegisters_selQ (s : State) : (s.resetRegisters).selQ = .temperature := rfl
@[simp] theorem resetRegisters_selB (s : State) : (s.resetRegisters).selB = .high := rfl
@[simp] theorem resetRegisters_err (s : State) : (s.resetRegisters).err = .none := rfl
@[simp] theorem resetRegisters_alarmT (s : State) : (s.resetRegisters).alarmT = .normal := rfl
@[simp] theorem resetRegisters_alarmH (s : State) : (s.resetRegisters).alarmH = .normal := rfl
@[simp] theorem resetRegisters_pend (s : State) : (s.resetRegisters).pend = 0b0000 := rfl
@[simp] theorem resetRegisters_btnPrev (s : State) : (s.resetRegisters).btnPrev = 0b1111 := rfl
@[simp] theorem resetRegisters_ledAlarm (s : State) : (s.resetRegisters).ledAlarm = false := rfl
@[simp] theorem resetRegisters_ledNormal (s : State) : (s.resetRegisters).ledNormal = true := rfl
@[simp] theorem resetRegisters_waitLast (s : State) : (s.resetRegisters).waitLast = s.waitLast := rfl
@[simp] theorem resetRegisters_loopGapLast (s : State) : (s.resetRegisters).loopGapLast = s.loopGapLast := rfl
@[simp] theorem resetRegisters_pins (s : State) : (s.resetRegisters).pins = s.pins := rfl
@[simp] theorem resetRegisters_stim (s : State) : (s.resetRegisters).stim = s.stim := rfl
@[simp] theorem resetRegisters_tick (s : State) : (s.resetRegisters).tick = s.tick := rfl

/-! ### `setAlarm` -/

@[simp] theorem setAlarm_hum (s : State) (q : Quantity) (a : AlarmState) : (s.setAlarm q a).hum = s.hum := by
  cases q <;> rfl
@[simp] theorem setAlarm_temp (s : State) (q : Quantity) (a : AlarmState) : (s.setAlarm q a).temp = s.temp := by
  cases q <;> rfl
@[simp] theorem setAlarm_valid (s : State) (q : Quantity) (a : AlarmState) : (s.setAlarm q a).valid = s.valid := by
  cases q <;> rfl
@[simp] theorem setAlarm_tempHigh (s : State) (q : Quantity) (a : AlarmState) : (s.setAlarm q a).tempHigh = s.tempHigh := by
  cases q <;> rfl
@[simp] theorem setAlarm_tempLow (s : State) (q : Quantity) (a : AlarmState) : (s.setAlarm q a).tempLow = s.tempLow := by
  cases q <;> rfl
@[simp] theorem setAlarm_humHigh (s : State) (q : Quantity) (a : AlarmState) : (s.setAlarm q a).humHigh = s.humHigh := by
  cases q <;> rfl
@[simp] theorem setAlarm_humLow (s : State) (q : Quantity) (a : AlarmState) : (s.setAlarm q a).humLow = s.humLow := by
  cases q <;> rfl
@[simp] theorem setAlarm_frame (s : State) (q : Quantity) (a : AlarmState) : (s.setAlarm q a).frame = s.frame := by
  cases q <;> rfl
@[simp] theorem setAlarm_bitcnt (s : State) (q : Quantity) (a : AlarmState) : (s.setAlarm q a).bitcnt = s.bitcnt := by
  cases q <;> rfl
@[simp] theorem setAlarm_seq (s : State) (q : Quantity) (a : AlarmState) : (s.setAlarm q a).seq = s.seq := by
  cases q <;> rfl
@[simp] theorem setAlarm_spd (s : State) (q : Quantity) (a : AlarmState) : (s.setAlarm q a).spd = s.spd := by
  cases q <;> rfl
@[simp] theorem setAlarm_tmr (s : State) (q : Quantity) (a : AlarmState) : (s.setAlarm q a).tmr = s.tmr := by
  cases q <;> rfl
@[simp] theorem setAlarm_curQ (s : State) (q : Quantity) (a : AlarmState) : (s.setAlarm q a).curQ = s.curQ := by
  cases q <;> rfl
@[simp] theorem setAlarm_oorCnt (s : State) (q : Quantity) (a : AlarmState) : (s.setAlarm q a).oorCnt = s.oorCnt := by
  cases q <;> rfl
@[simp] theorem setAlarm_sampIdx (s : State) (q : Quantity) (a : AlarmState) : (s.setAlarm q a).sampIdx = s.sampIdx := by
  cases q <;> rfl
@[simp] theorem setAlarm_selQ (s : State) (q : Quantity) (a : AlarmState) : (s.setAlarm q a).selQ = s.selQ := by
  cases q <;> rfl
@[simp] theorem setAlarm_selB (s : State) (q : Quantity) (a : AlarmState) : (s.setAlarm q a).selB = s.selB := by
  cases q <;> rfl
@[simp] theorem setAlarm_err (s : State) (q : Quantity) (a : AlarmState) : (s.setAlarm q a).err = s.err := by
  cases q <;> rfl
@[simp] theorem setAlarm_pend (s : State) (q : Quantity) (a : AlarmState) : (s.setAlarm q a).pend = s.pend := by
  cases q <;> rfl
@[simp] theorem setAlarm_btnPrev (s : State) (q : Quantity) (a : AlarmState) : (s.setAlarm q a).btnPrev = s.btnPrev := by
  cases q <;> rfl
@[simp] theorem setAlarm_ledAlarm (s : State) (q : Quantity) (a : AlarmState) : (s.setAlarm q a).ledAlarm = s.ledAlarm := by
  cases q <;> rfl
@[simp] theorem setAlarm_ledNormal (s : State) (q : Quantity) (a : AlarmState) : (s.setAlarm q a).ledNormal = s.ledNormal := by
  cases q <;> rfl
@[simp] theorem setAlarm_waitLast (s : State) (q : Quantity) (a : AlarmState) : (s.setAlarm q a).waitLast = s.waitLast := by
  cases q <;> rfl
@[simp] theorem setAlarm_loopGapLast (s : State) (q : Quantity) (a : AlarmState) : (s.setAlarm q a).loopGapLast = s.loopGapLast := by
  cases q <;> rfl
@[simp] theorem setAlarm_pins (s : State) (q : Quantity) (a : AlarmState) : (s.setAlarm q a).pins = s.pins := by
  cases q <;> rfl
@[simp] theorem setAlarm_stim (s : State) (q : Quantity) (a : AlarmState) : (s.setAlarm q a).stim = s.stim := by
  cases q <;> rfl
@[simp] theorem setAlarm_tick (s : State) (q : Quantity) (a : AlarmState) : (s.setAlarm q a).tick = s.tick := by
  cases q <;> rfl

/-- The quantity whose alarm is set takes the value. -/
@[simp] theorem alarm_setAlarm (s : State) (q : Quantity) (a : AlarmState) : (s.setAlarm q a).alarm q = a := by
  cases q <;> rfl

/-- The other quantity's alarm stays. -/
theorem alarm_setAlarm_of_ne (s : State) (q r : Quantity) (a : AlarmState) (h : r ≠ q) :
    (s.setAlarm q a).alarm r = s.alarm r := by
  cases q <;> cases r <;> first | rfl | exact absurd rfl h

/-! ### `nextQuantity` -/

@[simp] theorem nextQuantity_hum (s : State) : s.nextQuantity.hum = s.hum := by
  unfold nextQuantity; split <;> rfl
@[simp] theorem nextQuantity_temp (s : State) : s.nextQuantity.temp = s.temp := by
  unfold nextQuantity; split <;> rfl
@[simp] theorem nextQuantity_valid (s : State) : s.nextQuantity.valid = s.valid := by
  unfold nextQuantity; split <;> rfl
@[simp] theorem nextQuantity_tempHigh (s : State) : s.nextQuantity.tempHigh = s.tempHigh := by
  unfold nextQuantity; split <;> rfl
@[simp] theorem nextQuantity_tempLow (s : State) : s.nextQuantity.tempLow = s.tempLow := by
  unfold nextQuantity; split <;> rfl
@[simp] theorem nextQuantity_humHigh (s : State) : s.nextQuantity.humHigh = s.humHigh := by
  unfold nextQuantity; split <;> rfl
@[simp] theorem nextQuantity_humLow (s : State) : s.nextQuantity.humLow = s.humLow := by
  unfold nextQuantity; split <;> rfl
@[simp] theorem nextQuantity_frame (s : State) : s.nextQuantity.frame = s.frame := by
  unfold nextQuantity; split <;> rfl
@[simp] theorem nextQuantity_bitcnt (s : State) : s.nextQuantity.bitcnt = s.bitcnt := by
  unfold nextQuantity; split <;> rfl
@[simp] theorem nextQuantity_spd (s : State) : s.nextQuantity.spd = s.spd := by
  unfold nextQuantity; split <;> rfl
@[simp] theorem nextQuantity_tmr (s : State) : s.nextQuantity.tmr = 0 := by
  unfold nextQuantity; split <;> rfl
@[simp] theorem nextQuantity_oorCnt (s : State) : s.nextQuantity.oorCnt = s.oorCnt := by
  unfold nextQuantity; split <;> rfl
@[simp] theorem nextQuantity_sampIdx (s : State) : s.nextQuantity.sampIdx = s.sampIdx := by
  unfold nextQuantity; split <;> rfl
@[simp] theorem nextQuantity_selQ (s : State) : s.nextQuantity.selQ = s.selQ := by
  unfold nextQuantity; split <;> rfl
@[simp] theorem nextQuantity_selB (s : State) : s.nextQuantity.selB = s.selB := by
  unfold nextQuantity; split <;> rfl
@[simp] theorem nextQuantity_err (s : State) : s.nextQuantity.err = s.err := by
  unfold nextQuantity; split <;> rfl
@[simp] theorem nextQuantity_alarmT (s : State) : s.nextQuantity.alarmT = s.alarmT := by
  unfold nextQuantity; split <;> rfl
@[simp] theorem nextQuantity_alarmH (s : State) : s.nextQuantity.alarmH = s.alarmH := by
  unfold nextQuantity; split <;> rfl
@[simp] theorem nextQuantity_pend (s : State) : s.nextQuantity.pend = s.pend := by
  unfold nextQuantity; split <;> rfl
@[simp] theorem nextQuantity_btnPrev (s : State) : s.nextQuantity.btnPrev = s.btnPrev := by
  unfold nextQuantity; split <;> rfl
@[simp] theorem nextQuantity_ledAlarm (s : State) : s.nextQuantity.ledAlarm = s.ledAlarm := by
  unfold nextQuantity; split <;> rfl
@[simp] theorem nextQuantity_ledNormal (s : State) : s.nextQuantity.ledNormal = s.ledNormal := by
  unfold nextQuantity; split <;> rfl
@[simp] theorem nextQuantity_waitLast (s : State) : s.nextQuantity.waitLast = s.waitLast := by
  unfold nextQuantity; split <;> rfl
@[simp] theorem nextQuantity_loopGapLast (s : State) : s.nextQuantity.loopGapLast = s.loopGapLast := by
  unfold nextQuantity; split <;> rfl
@[simp] theorem nextQuantity_pins (s : State) : s.nextQuantity.pins = s.pins := by
  unfold nextQuantity; split <;> rfl
@[simp] theorem nextQuantity_stim (s : State) : s.nextQuantity.stim = s.stim := by
  unfold nextQuantity; split <;> rfl
@[simp] theorem nextQuantity_tick (s : State) : s.nextQuantity.tick = s.tick := by
  unfold nextQuantity; split <;> rfl

end Sys2Proof.Machine.State
end

