-- ==== Sys2Proof/Laws/Ops.lean ====
section
/-! SUPPORT. What each shared operation can do, said once; proofs cite these and leave the operations folded. -/

namespace Sys2Proof.Laws

open Sys2Proof.Machine Sys2Proof.Safety

/-! ### Counters -/

/-- The timer's successor where 20 bits hold it. -/
theorem nextTmr_toNat (t : Ticks) (h : t.toNat + 1 < 2 ^ 20) : (nextTmr t).toNat = t.toNat + 1 := by
  have hne : t ≠ BitVec.allOnes 20 := by rintro rfl; simp at h
  rw [nextTmr, if_neg hne, BitVec.toNat_add]
  exact Nat.mod_eq_of_lt h

/-- The bit counter's successor where 6 bits hold it. -/
theorem nextBitcnt_toNat (n : BitVec 6) (h : n.toNat + 1 < 64) : (nextBitcnt n).toNat = n.toNat + 1 := by
  have hne : n ≠ BitVec.allOnes 6 := by rintro rfl; simp at h
  rw [nextBitcnt, if_neg hne, BitVec.toNat_add]
  exact Nat.mod_eq_of_lt h

/-- A two-bit count's successor where 2 bits hold it. -/
theorem nextCount_toNat (n : BitVec 2) (h : n.toNat + 1 < 4) : (nextCount n).toNat = n.toNat + 1 := by
  have hne : n ≠ BitVec.allOnes 2 := by rintro rfl; simp at h
  rw [nextCount, if_neg hne, BitVec.toNat_add]
  exact Nat.mod_eq_of_lt h

/-- A shift in doubles the value and adds the bit, while no 1 is shifted out. -/
theorem shiftIn_toNat (f : Frame) (b : Bool) (h : f.toNat < 2 ^ 39) : (shiftIn f b).toNat = 2 * f.toNat + b.toNat := by
  have hb : b.toNat < 2 ^ 1 := by cases b <;> decide
  simp only [shiftIn, BitVec.toNat_append, BitVec.extractLsb'_toNat, BitVec.toNat_ofBool, Nat.shiftRight_zero]
  rw [Nat.mod_eq_of_lt h, ← Nat.shiftLeft_add_eq_or_of_lt hb, Nat.shiftLeft_eq]
  omega

/-! ### The two timed state kinds -/

/-- A `DWELL` leaves at its last tick and counts on before. -/
theorem dwell_cases (s leave : State) (n : Nat) :
    (s.tmr.toNat = n - 1 ∧ s.dwell n leave = leave) ∨ (s.tmr.toNat ≠ n - 1 ∧ s.dwell n leave = s.countTick) := by
  unfold State.dwell
  split
  · exact .inl ⟨‹_›, rfl⟩
  · exact .inr ⟨‹_›, rfl⟩

/-- A `WAIT` leaves on its level, else ends the poll at its last tick, else counts on. -/
theorem await_cases (s leave : State) (level : Bool) :
    (s.pins.dqIn = level ∧ s.await level leave = leave) ∨
    (s.pins.dqIn ≠ level ∧ s.tmr = s.waitLast ∧ s.await level leave = s.endPoll .noResponse) ∨
    (s.pins.dqIn ≠ level ∧ s.tmr ≠ s.waitLast ∧ s.await level leave = s.countTick) := by
  unfold State.await
  split
  · exact .inl ⟨‹_›, rfl⟩
  · split
    · exact .inr (.inl ⟨‹_›, ‹_›, rfl⟩)
    · exact .inr (.inr ⟨‹_›, ‹_›, rfl⟩)

/-- Counting on changes the timer alone. -/
theorem countTick_countsOn (s : State) : CountsOn s (.next s.countTick) :=
  ⟨nextTmr s.tmr, rfl, nextTmr_toNat s.tmr⟩

/-- The timer is at a wait's last tick iff it holds `WAIT_TIMEOUT_TICKS - 1`. -/
theorem tmr_eq_waitLast (s : State) : s.tmr = s.waitLast ↔ s.tmr.toNat = s.waitTimeoutTicks - 1 := by
  simp [State.waitTimeoutTicks, ← BitVec.toNat_inj]

/-! ### The poll -/

/-- The return from a poll happens at the tick the poll ends, and at no other. -/
theorem pollReturn_cases (s d : State) (succ : SeqState) :
    (s.pollEnds = true ∧ s.pollReturn d succ = d.goSeq succ) ∨ (s.pollEnds = false ∧ s.pollReturn d succ = d) := by
  unfold State.pollReturn
  cases h : s.pollEnds
  · exact .inr ⟨rfl, rfl⟩
  · exact .inl ⟨rfl, rfl⟩

/-- The decoder's rule is the operation whose code is in `spd`. -/
theorem exec_spd (s : State) : exec s.spd.instr s = .next s.decoderTick := by
  unfold State.decoderTick
  cases h : s.spd <;> rfl

/-- What the decoder's rule may write: it keeps every register of the other sub-blocks. -/
theorem decoderTick_frame (s : State) :
    ∃ (hum temp : Byte) (valid : Bool) (frame : Frame) (bitcnt : BitVec 6) (spd : SpdState) (tmr : Ticks) (err : PollError),
      s.decoderTick =
        { s with hum := hum, temp := temp, valid := valid, frame := frame, bitcnt := bitcnt, spd := spd, tmr := tmr, err := err } := by
  have dw : ∀ n leave, (∃ f b p t, leave = { s with frame := f, bitcnt := b, spd := p, tmr := t }) →
      ∃ (hum temp : Byte) (valid : Bool) (frame : Frame) (bitcnt : BitVec 6) (spd : SpdState) (tmr : Ticks) (err : PollError),
        s.dwell n leave =
          { s with hum := hum, temp := temp, valid := valid, frame := frame, bitcnt := bitcnt, spd := spd, tmr := tmr, err := err } := by
    rintro n leave ⟨f, b, p, t, rfl⟩
    obtain ⟨-, h⟩ | ⟨-, h⟩ := dwell_cases s { s with frame := f, bitcnt := b, spd := p, tmr := t } n <;> rw [h]
    · exact ⟨_, _, _, _, _, _, _, _, rfl⟩
    · exact ⟨_, _, _, _, _, _, _, _, rfl⟩
  have aw : ∀ l p, ∃ (hum temp : Byte) (valid : Bool) (frame : Frame) (bitcnt : BitVec 6) (spd : SpdState) (tmr : Ticks)
      (err : PollError), s.await l (s.goSpd p) =
        { s with hum := hum, temp := temp, valid := valid, frame := frame, bitcnt := bitcnt, spd := spd, tmr := tmr, err := err } := by
    intro l p
    obtain ⟨-, h⟩ | ⟨-, -, h⟩ | ⟨-, -, h⟩ := await_cases s (s.goSpd p) l <;> rw [h] <;> exact ⟨_, _, _, _, _, _, _, _, rfl⟩
  unfold State.decoderTick
  cases s.spd
  · exact ⟨_, _, _, _, _, _, _, _, rfl⟩
  · exact dw _ _ ⟨_, _, _, _, rfl⟩
  · exact dw _ _ ⟨_, _, _, _, rfl⟩
  · exact aw _ _
  · exact aw _ _
  · exact aw _ _
  · exact aw _ _
  · exact dw _ _ ⟨_, _, _, _, rfl⟩
  · exact aw _ _
  · show ∃ (hum temp : Byte) (valid : Bool) (frame : Frame) (bitcnt : BitVec 6) (spd : SpdState) (tmr : Ticks) (err : PollError),
      tickCheck s = _
    unfold tickCheck
    split <;> exact ⟨_, _, _, _, _, _, _, _, rfl⟩

/-! ### Flags and the evaluator -/

/-- A `C_CHK_*` state clears its flag and goes to its settle state, or passes on. -/
theorem testFlag_cases (s : State) (b : Button) (found notFound : SeqState) :
    (s.pending b = true ∧ s.testFlag b found notFound = (s.clearPend (buttonMask b)).goSeq found) ∨
    (s.pending b = false ∧ s.testFlag b found notFound = s.goSeq notFound) := by
  unfold State.testFlag
  cases h : s.pending b
  · exact .inr ⟨rfl, rfl⟩
  · exact .inl ⟨rfl, rfl⟩

/-- NEXT goes to humidity's gate after temperature's, and to `S_GAP` after humidity's. -/
theorem nextQuantity_cases (s : State) :
    (s.curQ = .temperature ∧ s.nextQuantity = { s with curQ := .humidity, seq := .eGate, tmr := 0 }) ∨
    (s.curQ = .humidity ∧ s.nextQuantity = { s with curQ := .temperature, seq := .sGap, tmr := 0 }) := by
  unfold State.nextQuantity
  cases h : s.curQ
  · exact .inl ⟨rfl, rfl⟩
  · exact .inr ⟨rfl, rfl⟩

/-- Two rules that agree on a register leave what they agree on. -/
@[simp] theorem twoWriters_self {α : Type} [DecidableEq α] (free : α → α → α) (a : α) : twoWriters free a a = a :=
  if_pos rfl

/-- Joining the decoder's rule into a sequencer's result writes the decoder's registers only. -/
theorem joinRules_frame (s d t : State) :
    ∃ (frame : Frame) (bitcnt : BitVec 6) (spd : SpdState) (tmr : Ticks),
      s.joinRules d t =
        { t with hum := d.hum, temp := d.temp, valid := d.valid, err := d.err, frame := frame, bitcnt := bitcnt, spd := spd, tmr := tmr } :=
  ⟨_, _, _, _, rfl⟩

/-- Where the polling states and the decoder agree, nothing is joined. -/
theorem withDecoder_of_pollConsistent (s t : State) (h : PollConsistent s) : s.withDecoder t = t := by
  unfold State.withDecoder
  refine if_pos ?_
  by_cases hs : s.spd = .idle
  · exact .inl hs
  · exact .inr (h.mp hs)

/-! ### Decoding and one tick -/

/-- Every sequencer state's code decodes to its operation. -/
@[simp] theorem decode_seq (q : SeqState) : decode (.seq5 q.code) = .ok q.instr := by
  cases q <;> rfl

/-- Every decoder state's code decodes to its operation. -/
@[simp] theorem decode_spd (p : SpdState) : decode (.spd4 p.code) = .ok p.instr := by
  cases p <;> rfl

/-- A tick with `rst` low runs the operation of `seq`. -/
theorem step_of_rst_low (s : State) (h : s.pins.rst = false) : step s = runTick s.seq.instr s := by
  unfold step State.fetchWord
  rw [h, decode_seq]
  rfl

/-- A tick with `rst` high only resets. -/
theorem step_of_rst_high (s : State) (h : s.pins.rst = true) : step s = .next (resetTick s) := by
  unfold step
  rw [h]
  rfl

/-- Once the operation's effect is known, the tick is that effect with the decoder's rule joined, NOTIFY, and time. -/
theorem runTick_of_exec (i : Instr) (s t : State) (h : exec i s = .next t) :
    runTick i s = .next (s.passTime (s.notify (s.withDecoder t))) := by
  unfold runTick
  rw [h]

/-- Everything a step can do. -/
theorem step_cases (s t : State) (h : step s = .next t) :
    (s.pins.rst = true ∧ t = resetTick s) ∨
    (s.pins.rst = false ∧ ∃ u, exec s.seq.instr s = .next u ∧ t = s.passTime (s.notify (s.withDecoder u))) := by
  cases hr : s.pins.rst
  · right
    rw [step_of_rst_low s hr] at h
    unfold runTick at h
    cases he : exec s.seq.instr s with
    | next u =>
      rw [he] at h
      exact ⟨rfl, u, rfl, (Host.Outcome.next.inj h).symm⟩
    | fault f => cases f
    | refused r => rw [he] at h; cases h
  · left
    rw [step_of_rst_high s hr] at h
    exact ⟨rfl, (Host.Outcome.next.inj h).symm⟩

end Sys2Proof.Laws
end

