-- ==== Sys2Proof/Laws/PerInstr.lean ====
section
/-! SUPPORT. The family `MatchesRow`: the word of every operation lies in its row of spec/opcode_table.json, one lemma per
constructor (30_encoding.md R98). -/

namespace Sys2Proof.Laws.MatchesRow

/-- The encoder's word has the row's format and, under the row's mask, the row's match value. -/
def Statement (i : Instr) : Prop :=
  (encode i).format = i.row.format ∧ (encode i).bits &&& i.row.mask = i.row.value

theorem idle : Statement (.idle) := ⟨rfl, rfl⟩

theorem startLow : Statement (.startLow) := ⟨rfl, rfl⟩

theorem startHigh : Statement (.startHigh) := ⟨rfl, rfl⟩

theorem ackL1 : Statement (.ackL1) := ⟨rfl, rfl⟩

theorem ackH : Statement (.ackH) := ⟨rfl, rfl⟩

theorem ackL2 : Statement (.ackL2) := ⟨rfl, rfl⟩

theorem bitRise : Statement (.bitRise) := ⟨rfl, rfl⟩

theorem bitDelay : Statement (.bitDelay) := ⟨rfl, rfl⟩

theorem bitFall : Statement (.bitFall) := ⟨rfl, rfl⟩

theorem check : Statement (.check) := ⟨rfl, rfl⟩

theorem checkOk (h f t g c : Byte) : Statement (.checkOk h f t g c) := ⟨rfl, Nat.and_zero _⟩

theorem checkBad (h f t g c : Byte) : Statement (.checkBad h f t g c) := ⟨rfl, Nat.and_zero _⟩

theorem sGap : Statement (.sGap) := ⟨rfl, rfl⟩

theorem sPoll : Statement (.sPoll) := ⟨rfl, rfl⟩

theorem sShow : Statement (.sShow) := ⟨rfl, rfl⟩

theorem sEntry : Statement (.sEntry) := ⟨rfl, rfl⟩

theorem sEntrySettle : Statement (.sEntrySettle) := ⟨rfl, rfl⟩

theorem cDraw : Statement (.cDraw) := ⟨rfl, rfl⟩

theorem cDelay : Statement (.cDelay) := ⟨rfl, rfl⟩

theorem cChkMode : Statement (.cChkMode) := ⟨rfl, rfl⟩

theorem cSetMode : Statement (.cSetMode) := ⟨rfl, rfl⟩

theorem cChkUp : Statement (.cChkUp) := ⟨rfl, rfl⟩

theorem cSetUp : Statement (.cSetUp) := ⟨rfl, rfl⟩

theorem cChkDown : Statement (.cChkDown) := ⟨rfl, rfl⟩

theorem cSetDown : Statement (.cSetDown) := ⟨rfl, rfl⟩

theorem cChkOk : Statement (.cChkOk) := ⟨rfl, rfl⟩

theorem cSetOk : Statement (.cSetOk) := ⟨rfl, rfl⟩

theorem eGate : Statement (.eGate) := ⟨rfl, rfl⟩

theorem aConfPoll : Statement (.aConfPoll) := ⟨rfl, rfl⟩

theorem aConfCount : Statement (.aConfCount) := ⟨rfl, rfl⟩

theorem aConfGap : Statement (.aConfGap) := ⟨rfl, rfl⟩

theorem aConfDecide : Statement (.aConfDecide) := ⟨rfl, rfl⟩

theorem aSustPoll : Statement (.aSustPoll) := ⟨rfl, rfl⟩

theorem aSustChk : Statement (.aSustChk) := ⟨rfl, rfl⟩

theorem aSustGap : Statement (.aSustGap) := ⟨rfl, rfl⟩

theorem selhi (q : Quantity) (b : Bound) : Statement (.selhi q b) := by
  cases q <;> cases b <;> exact ⟨rfl, rfl⟩

theorem incTh : Statement (.incTh) := ⟨rfl, rfl⟩

theorem incTl : Statement (.incTl) := ⟨rfl, rfl⟩

theorem incHh : Statement (.incHh) := ⟨rfl, rfl⟩

theorem incHl : Statement (.incHl) := ⟨rfl, rfl⟩

theorem sello (q : Quantity) (b : Bound) : Statement (.sello q b) := by
  cases q <;> cases b <;> exact ⟨rfl, rfl⟩

theorem decTh : Statement (.decTh) := ⟨rfl, rfl⟩

theorem decTl : Statement (.decTl) := ⟨rfl, rfl⟩

theorem decHh : Statement (.decHh) := ⟨rfl, rfl⟩

theorem decHl : Statement (.decHl) := ⟨rfl, rfl⟩

theorem toggle (held : Bool) (q : Quantity) (b : Bound) : Statement (.toggle held q b) := by
  cases held <;> cases q <;> cases b <;> exact ⟨rfl, rfl⟩

theorem oktap (q : Quantity) (b : Bound) : Statement (.oktap q b) := by
  cases q <;> cases b <;> exact ⟨rfl, rfl⟩

theorem exit (q : Quantity) (b : Bound) : Statement (.exit q b) := by
  cases q <;> cases b <;> exact ⟨rfl, rfl⟩

theorem enterMode (ok down up : Bool) : Statement (.enterMode ok down up) := by
  cases ok <;> cases down <;> cases up <;> exact ⟨rfl, rfl⟩

theorem enterUpDown (ok mode : Bool) : Statement (.enterUpDown ok mode) := by
  cases ok <;> cases mode <;> exact ⟨rfl, rfl⟩

end Sys2Proof.Laws.MatchesRow
end

