-- ==== Sys2Proof/Laws/Run.lean ====
section
/-! SUPPORT. Runs: how the levels of a trace move along it, and how runs compose. -/

namespace Sys2Proof.Laws

open Sys2Proof.Machine Sys2Proof.Safety

/-- A state's successor by passing time carries the trace one tick on. -/
theorem levels_passTime (s t : State) (k : Nat) : levels (s.passTime t) k = levels s (k + 1) := by
  cases k with
  | zero =>
    show s.nextPins = _
    unfold State.nextPins levels
    cases s.stim <;> rfl
  | succ k =>
    simp only [levels, State.passTime_stim, State.passTime_tick, List.getElem?_tail]
    congr 3 <;> omega

/-- One step carries the trace one tick on. -/
theorem levels_step (s t : State) (h : step s = .next t) (k : Nat) : levels t k = levels s (k + 1) := by
  obtain ⟨-, rfl⟩ | ⟨-, u, -, rfl⟩ := step_cases s t h
  · rw [resetTick]; exact levels_passTime s _ k
  · exact levels_passTime s _ k

/-- `rst` stays low along the trace. -/
theorem noReset_step (s t : State) (n : Nat) (h : step s = .next t) (hn : NoReset (n + 1) s) : NoReset n t := by
  intro k hk
  rw [levels_step s t h k]
  exact hn (k + 1) (by omega)

/-- A run of one tick and `k` more. -/
theorem runTicks_succ (s t : State) (k : Nat) (h : step s = .next t) : runTicks (k + 1) s = runTicks k t := by
  show (match step s with | .next t => runTicks k t | .fault f => .fault f | .refused r => .refused r) = _
  rw [h]

/-- Runs compose. -/
theorem runTicks_add (j k : Nat) (s t : State) (h : runTicks j s = .next t) : runTicks (j + k) s = runTicks k t := by
  induction j generalizing s with
  | zero =>
    rw [Nat.zero_add]
    exact congrArg (runTicks k) (Host.Outcome.next.inj h)
  | succ j ih =>
    unfold runTicks at h
    cases hs : step s with
    | next u =>
      rw [hs] at h
      rw [Nat.add_right_comm, runTicks_succ s u (j + k) hs]
      exact ih u h
    | fault f => cases f
    | refused r => rw [hs] at h; cases h

/-- After `j` ticks the trace has moved on by `j`. -/
theorem levels_runTicks (j : Nat) (s t : State) (h : runTicks j s = .next t) (k : Nat) : levels t k = levels s (j + k) := by
  induction j generalizing s with
  | zero =>
    rw [Nat.zero_add]
    exact congrArg (levels · k) (Host.Outcome.next.inj h).symm
  | succ j ih =>
    unfold runTicks at h
    cases hs : step s with
    | next u =>
      rw [hs] at h
      rw [ih u h, levels_step s u hs, Nat.add_right_comm]
    | fault f => cases f
    | refused r => rw [hs] at h; cases h

/-- One more tick at the end of a run. -/
theorem runTicks_snoc (k : Nat) (s t u : State) (h : runTicks k s = .next t) (hs : step t = .next u) :
    runTicks (k + 1) s = .next u := by
  rw [runTicks_add k 1 s t h, runTicks_succ t u 0 hs]
  rfl

/-- A run of `n` ticks by induction: what holds of the first state, and of each next one because it held of the one before,
holds at every tick of the run. -/
theorem runTicks_induct (P : Nat → State → Prop) (n : Nat) (s : State) (h0 : P 0 s)
    (hstep : ∀ k t, k < n → runTicks k s = .next t → P k t → ∃ u, step t = .next u ∧ P (k + 1) u) :
    ∀ k, k ≤ n → ∃ t, runTicks k s = .next t ∧ P k t := by
  intro k hk
  induction k with
  | zero => exact ⟨s, rfl, h0⟩
  | succ k ih =>
    obtain ⟨t, ht, hP⟩ := ih (by omega)
    obtain ⟨u, hu, hP'⟩ := hstep k t (by omega) ht hP
    exact ⟨u, runTicks_snoc k s t u ht hu, hP'⟩

end Sys2Proof.Laws
end

