-- ==== Sys2Proof/Tests/Slice0.lean ====
section
/-! SUPPORT. Tests with expected results from spec/ (30_encoding.md's tables, the rules' examples, 95_test_vectors.md), and for
every statement with hypotheses a concrete state that meets them, clause by clause at the ends of its ranges. -/

namespace Sys2Proof.Tests

open Sys2Proof.Machine Sys2Proof.Safety

/-! ### Small states -/

/-- The idle levels: no reset, the pin high, no button. -/
def quiet : Inputs := ⟨false, true, 0b0000⟩

/-- The state after reset of an instance with both parameters 1000. -/
def base : State := { State.reset with waitLast := 999, loopGapLast := 999 }

/-- A sequencer state at a value of the timer, with the buttons. -/
def at' (q : SeqState) (t : Ticks) (btn : Buttons) : State :=
  { base with seq := q, tmr := t, pins := ⟨false, true, btn⟩ }

/-- A decoder state inside the main loop's poll, at a value of the timer, with the pin's level. -/
def poll (p : SpdState) (t : Ticks) (dq : Bool) : State :=
  { base with seq := .sPoll, spd := p, tmr := t, pins := ⟨false, dq, 0b0000⟩ }

/-- A state that will see the given levels, one a tick. -/
def feed (w : List Inputs) (s : State) : State :=
  { s with pins := w.headD quiet, stim := w.tail }

/-- The next state of an outcome. -/
def after (o : Host.Outcome State Fault Refusal) : Option State :=
  match o with
  | .next t => some t
  | _ => none

/-- Some facts of the next state of an operation. -/
def ran {α : Type} (i : Instr) (s : State) (f : State → α) : Option α :=
  (after (exec i s)).map f

/-- Some facts of the state after one tick. -/
def ticked {α : Type} (s : State) (f : State → α) : Option α :=
  (after (step s)).map f

/-- The operation a word selects. -/
def reads (w : CodeWord) : Option Instr :=
  match decode w with
  | .ok i => some i
  | .error _ => none

/-! ### Well-formedness: an ill-formed term for each check -/

theorem test_wf_refuses_ok_with_bad_sum : (Instr.checkOk 60 0 25 0 86).wf = false := by decide
theorem test_wf_refuses_bad_with_good_sum : (Instr.checkBad 60 0 25 0 85).wf = false := by decide
theorem test_wf_refuses_the_second_reading_of_x111 : (Instr.enterUpDown false true).wf = false := by decide

/-! ### Decoding: words written out from the tables R84, R86 to R89 -/

theorem test_decode_spd :
    [0b0000#4, 0b0001#4, 0b0010#4, 0b0011#4, 0b0100#4, 0b0101#4, 0b0110#4, 0b0111#4, 0b1000#4, 0b1001#4, 0b1010#4,
      0b1111#4].map (fun w => reads (.spd4 w)) =
    [some .idle, some .startLow, some .startHigh, some .ackL1, some .ackH, some .ackL2, some .bitRise, some .bitDelay,
      some .bitFall, some .check, none, none] := by decide

theorem test_decode_seq_main :
    [0b00000#5, 0b00001#5, 0b00010#5, 0b00011#5, 0b00100#5].map (fun w => reads (.seq5 w)) =
    [some .sGap, some .sPoll, some .sShow, some .sEntry, some .sEntrySettle] := by decide

theorem test_decode_seq_configuring :
    [0b00101#5, 0b00110#5, 0b00111#5, 0b01000#5, 0b01001#5, 0b01010#5, 0b01011#5, 0b01100#5, 0b01101#5, 0b01110#5].map
      (fun w => reads (.seq5 w)) =
    [some .cDraw, some .cDelay, some .cChkMode, some .cSetMode, some .cChkUp, some .cSetUp, some .cChkDown, some .cSetDown,
      some .cChkOk, some .cSetOk] := by decide

theorem test_decode_seq_alarm :
    [0b01111#5, 0b10000#5, 0b10001#5, 0b10010#5, 0b10011#5, 0b10100#5, 0b10101#5, 0b10110#5, 0b10111#5, 0b11111#5].map
      (fun w => reads (.seq5 w)) =
    [some .eGate, some .aConfPoll, some .aConfCount, some .aConfGap, some .aConfDecide, some .aSustPoll, some .aSustChk,
      some .aSustGap, none, none] := by decide

theorem test_decode_evt_up_down :
    [0b00001#5, 0b00101#5, 0b00100#5, 0b00111#5, 0b00110#5, 0b01010#5, 0b01101#5, 0b01100#5, 0b01111#5, 0b01110#5].map
      (fun w => reads (.evt5 w)) =
    [some (.selhi .temperature .high), some .incTh, some .incTl, some .incHh, some .incHl, some (.sello .humidity .low),
      some .decTh, some .decTl, some .decHh, some .decHl] := by decide

theorem test_decode_evt_mode_ok :
    [0b10001#5, 0b10110#5, 0b11011#5, 0b11101#5].map (fun w => reads (.evt5 w)) =
    [some (.toggle false .temperature .high), some (.toggle true .humidity .low), some (.oktap .humidity .high),
      some (.exit .temperature .high)] := by decide

theorem test_decode_pend :
    [0b0100#4, 0b0111#4, 0b1011#4, 0b1001#4, 0b0000#4].map (fun w => reads (.pend4 w)) =
    [some (.enterMode false false false), some (.enterMode false true true), some (.enterUpDown true false), none, none] := by
  decide

/-- `60 0 25 0 85` is `0x3C00190055` (R122's example), and with 86 the sum is wrong (R125's). -/
theorem test_decode_frame :
    [0x3C00190055#40, 0x3C00190056#40].map (fun w => reads (.frame40 w)) =
    [some (.checkOk 60 0 25 0 85), some (.checkBad 60 0 25 0 86)] := by decide

/-- A bare number of a row is read in the format log entry 7 chooses. -/
theorem test_decodeTableWord :
    [(40, 0x3C00190055), (8, 0x13), (8, 0x1C), (4, 0x7), (8, 0x20), (16, 0)].map (fun p => decodeTableWord p.1 p.2) =
    [some (.checkOk 60 0 25 0 85), some .aConfDecide, some (.exit .temperature .low), some .bitDelay, none, none] := by decide

/-! ### The word placed is the word run -/

theorem test_placed_seq_runs : ticked (base.withFetchWord 8 0x05) (fun t => (t.seq, t.tmr)) = some (.cDelay, 0) := by decide
theorem test_placed_frame_runs :
    ticked (base.withFetchWord 40 0x3C00190055) (fun t => (t.hum, t.temp, t.valid, t.seq)) = some (60, 25, true, .sShow) := by
  decide
theorem test_placed_event_runs : ticked (base.withFetchWord 8 0x1F) (fun t => (t.seq, t.tmr)) = some (.eGate, 0) := by decide
theorem test_placed_spd_runs : ticked (base.withFetchWord 4 0x3) (fun t => (t.spd, t.tmr)) = some (.ackL1, 1) := by decide

/-! ### The decoder (examples of R112 to R126, vectors V-SPD) -/

theorem test_idle : ran .idle base id = some base := by decide
theorem test_startLow_last : ran .startLow (poll .startLow 19999 true) (fun t => (t.spd, t.tmr)) = some (.startHigh, 0) := by decide
theorem test_startLow_before : ran .startLow (poll .startLow 19998 true) (fun t => (t.spd, t.tmr)) = some (.startLow, 19999) := by
  decide
theorem test_startHigh_last : ran .startHigh (poll .startHigh 19 true) (fun t => (t.spd, t.tmr)) = some (.ackL1, 0) := by decide
theorem test_ackL1_low : ran .ackL1 (poll .ackL1 999 false) (fun t => (t.spd, t.err)) = some (.ackH, .none) := by decide
theorem test_ackL1_timeout : ran .ackL1 (poll .ackL1 999 true) (fun t => (t.spd, t.err, t.tmr)) = some (.idle, .noResponse, 0) := by
  decide
theorem test_ackH_high : ran .ackH (poll .ackH 78 true) (fun t => (t.spd, t.tmr)) = some (.ackL2, 0) := by decide
theorem test_ackH_low : ran .ackH (poll .ackH 78 false) (fun t => (t.spd, t.tmr)) = some (.ackH, 79) := by decide
theorem test_ackL2_low : ran .ackL2 (poll .ackL2 78 false) (fun t => (t.spd, t.tmr)) = some (.bitRise, 0) := by decide
theorem test_bitRise_high : ran .bitRise (poll .bitRise 48 true) (fun t => (t.spd, t.tmr)) = some (.bitDelay, 0) := by decide
theorem test_bitRise_timeout : ran .bitRise (poll .bitRise 999 false) (fun t => (t.spd, t.err)) = some (.idle, .noResponse) := by
  decide
theorem test_bitDelay_samples :
    ran .bitDelay { poll .bitDelay 28 true with frame := 0b0011, bitcnt := 4 } (fun t => (t.frame, t.bitcnt, t.spd)) =
      some (0b00111, 5, .bitFall) := by decide
theorem test_bitDelay_waits :
    ran .bitDelay { poll .bitDelay 27 true with bitcnt := 4 } (fun t => (t.bitcnt, t.spd, t.tmr)) = some (4, .bitDelay, 28) := by
  decide
theorem test_bitFall_more : ran .bitFall { poll .bitFall 0 false with bitcnt := 39 } (fun t => t.spd) = some .bitRise := by decide
theorem test_bitFall_last : ran .bitFall { poll .bitFall 0 false with bitcnt := 40 } (fun t => t.spd) = some .check := by decide
theorem test_check_good :
    ran .check { poll .check 0 true with frame := 0x3C00190055 } (fun t => (t.hum, t.temp, t.valid, t.err)) =
      some (60, 25, true, .none) := by decide
theorem test_check_bad :
    ran .check { poll .check 0 true with frame := 0x3C00190056 } (fun t => (t.hum, t.temp, t.valid, t.err)) =
      some (0, 0, false, .checksumMismatch) := by decide
/-- "a good frame `200 0 0 0 200` stores `hum = 200`, `temp = 0`" (R124). -/
theorem test_checkOk : ran (.checkOk 200 0 0 0 200) (poll .check 0 true) (fun t => (t.hum, t.temp)) = some (200, 0) := by decide
theorem test_checkBad :
    ran (.checkBad 60 0 25 0 86) { poll .check 0 true with hum := 7 } (fun t => (t.hum, t.spd)) = some (7, .idle) := by decide

/-! ### The main loop -/

theorem test_sGap_last : ran .sGap (at' .sGap 999 0) (fun t => (t.seq, t.spd, t.tmr)) = some (.sPoll, .startLow, 0) := by decide
theorem test_sPoll_returns :
    ran .sPoll { poll .check 0 true with frame := 0x3C00190055 } (fun t => (t.seq, t.spd, t.hum)) = some (.sShow, .idle, 60) := by
  decide
theorem test_sPoll_returns_on_error : ran .sPoll (poll .ackL1 999 true) (fun t => (t.seq, t.err)) = some (.sShow, .noResponse) := by
  decide
/-- Tick 24736 of P1. -/
theorem test_sShow :
    ({ at' .sShow 0 0 with hum := 60, temp := 25 } : State).outputs.disp = ⟨true, .reading, .temperature, .low, 60, 25⟩ ∧
    ran .sShow (at' .sShow 0 0) (fun t => t.seq) = some .sEntry := by decide

/-! ### Configuration (examples of R161 to R183, vectors V-DEB, V-CFG) -/

/-- Tick 24737: MODE cleared. -/
theorem test_sEntry_mode : ticked { at' .sEntry 0 0 with pend := 0b0100 } (fun t => (t.seq, t.pend)) = some (.sEntrySettle, 0b0000) := by
  decide
/-- V-DEB-3: set wins over clear. -/
theorem test_sEntry_set_wins :
    ticked { at' .sEntry 0 0b0100 with pend := 0b0101, btnPrev := 0 } (fun t => (t.seq, t.pend)) = some (.sEntrySettle, 0b0101) := by
  decide
theorem test_enterMode : ran (.enterMode true false true) { base with pend := 0b1101 } (fun t => (t.pend, t.seq)) =
    some (0b1001, .sEntrySettle) := by decide
theorem test_enterUpDown : ran (.enterUpDown true false) { base with pend := 0b1011 } (fun t => (t.pend, t.seq)) =
    some (0b1000, .sEntrySettle) := by decide
theorem test_sEntrySettle :
    ran .sEntrySettle { at' .sEntrySettle 999999 0 with selQ := .humidity, selB := .low } (fun t => (t.seq, t.selQ, t.selB)) =
      some (.cDraw, .temperature, .high) := by decide
/-- Tick 1 024 738. -/
theorem test_cDraw :
    (at' .cDraw 0 0).outputs.disp = ⟨true, .config, .temperature, .high, 30, 0⟩ ∧
    ran .cDraw (at' .cDraw 0 0) (fun t => t.seq) = some .cDelay := by decide
theorem test_cDelay : ran .cDelay (at' .cDelay 199999 0) (fun t => t.seq) = some .cChkMode := by decide
theorem test_cChkMode : ran .cChkMode { at' .cChkMode 0 0 with pend := 0b1011 } (fun t => (t.seq, t.pend)) =
    some (.cChkUp, 0b1011) := by decide
theorem test_cChkUp : ran .cChkUp { at' .cChkUp 0 0 with pend := 0b0001 } (fun t => (t.seq, t.pend)) = some (.cSetUp, 0) := by decide
theorem test_cChkDown : ran .cChkDown { at' .cChkDown 0 0 with pend := 0b0111 } (fun t => (t.seq, t.pend)) =
    some (.cSetDown, 0b0101) := by decide
theorem test_cChkOk : ran .cChkOk { at' .cChkOk 0 0 with pend := 0b1000 } (fun t => (t.seq, t.pend)) = some (.cSetOk, 0) := by decide
theorem test_cSetMode : ran .cSetMode (at' .cSetMode 999999 0b0100) (fun t => (t.selQ, t.selB, t.seq)) =
    some (.humidity, .high, .cChkUp) := by decide
theorem test_cSetUp_tap : ran .cSetUp { at' .cSetUp 999999 0 with selB := .low } (fun t => (t.selB, t.tempLow, t.seq)) =
    some (.high, 20, .cChkDown) := by decide
theorem test_cSetUp_held : ran .cSetUp (at' .cSetUp 999999 0b0001) (fun t => (t.tempHigh, t.selB)) = some (31, .high) := by decide
theorem test_cSetDown_held :
    ran .cSetDown { at' .cSetDown 999999 0b0010 with selQ := .humidity, selB := .low } (fun t => (t.humLow, t.seq)) =
      some (40, .cChkOk) := by decide
theorem test_cSetOk_held : ran .cSetOk (at' .cSetOk 999999 0b1000) (fun t => t.seq) = some .eGate := by decide
theorem test_cSetOk_tap : ran .cSetOk (at' .cSetOk 999999 0b0111) (fun t => t.seq) = some .cDraw := by decide
theorem test_selhi : ran (.selhi .temperature .low) { base with selB := .low } (fun t => (t.selB, t.tempHigh)) = some (.high, 30) := by
  decide
theorem test_incTh : ran .incTh base (fun t => t.tempHigh) = some 31 := by decide
theorem test_incTh_capped : ran .incTh { base with tempHigh := 50 } (fun t => t.tempHigh) = some 50 := by decide
theorem test_incTl : ran .incTl base (fun t => t.tempLow) = some 21 := by decide
theorem test_incTl_meets_high : ran .incTl { base with tempLow := 30 } (fun t => t.tempLow) = some 30 := by decide
theorem test_incHh : ran .incHh { base with humHigh := 80 } (fun t => t.humHigh) = some 90 := by decide
/-- R189 item 2: "`hum_high = 250`, `hum_high + 10 <= 90` is false on natural numbers, so nothing is written". -/
theorem test_incHh_no_wrap : ran .incHh { base with humHigh := 250 } (fun t => t.humHigh) = some 250 := by decide
theorem test_incHl : ran .incHl { base with humLow := 60 } (fun t => t.humLow) = some 70 := by decide
theorem test_incHl_meets_high : ran .incHl { base with humLow := 70 } (fun t => t.humLow) = some 70 := by decide
theorem test_sello : ran (.sello .temperature .high) base (fun t => (t.selB, t.tempHigh)) = some (.low, 30) := by decide
theorem test_decTh : ran .decTh base (fun t => t.tempHigh) = some 29 := by decide
theorem test_decTh_meets_low : ran .decTh { base with tempHigh := 20 } (fun t => t.tempHigh) = some 20 := by decide
theorem test_decTl : ran .decTl base (fun t => t.tempLow) = some 19 := by decide
theorem test_decTl_no_wrap : ran .decTl { base with tempLow := 0 } (fun t => t.tempLow) = some 0 := by decide
theorem test_decHh : ran .decHh { base with humHigh := 60 } (fun t => t.humHigh) = some 50 := by decide
theorem test_decHh_meets_low : ran .decHh { base with humHigh := 50 } (fun t => t.humHigh) = some 50 := by decide
theorem test_decHl : ran .decHl base (fun t => t.humLow) = some 40 := by decide
theorem test_decHl_floor : ran .decHl { base with humLow := 10 } (fun t => t.humLow) = some 10 := by decide
theorem test_toggle : ran (.toggle true .humidity .low) { base with selQ := .humidity, selB := .low } (fun t => (t.selQ, t.selB)) =
    some (.temperature, .low) := by decide
theorem test_oktap : ran (.oktap .temperature .high) (at' .cSetOk 999999 0) (fun t => (t.seq, t.tmr)) = some (.cDraw, 0) := by decide
theorem test_exit : ran (.exit .temperature .high) (at' .cSetOk 999999 8) (fun t => (t.seq, t.tmr)) = some (.eGate, 0) := by decide

/-! ### The alarm evaluator (examples of R190 to R200, vectors V-ALM) -/

/-- Tick 24826: `temp = 35 > 30`. -/
theorem test_eGate_opens :
    ran .eGate { at' .eGate 0 0 with temp := 35, valid := true, oorCnt := 2 } (fun t => (t.alarmT, t.seq, t.spd, t.oorCnt)) =
      some (.confirming, .aConfPoll, .startLow, 0) := by decide
/-- "a reading exactly on a threshold does not open the gate" (R193). -/
theorem test_eGate_on_threshold :
    ran .eGate { at' .eGate 0 0 with temp := 30, valid := true } (fun t => (t.alarmT, t.seq, t.curQ)) =
      some (.normal, .eGate, .humidity) := by decide
theorem test_aConfPoll_returns :
    ran .aConfPoll { poll .check 0 true with seq := .aConfPoll, frame := 0x3C00190055 } (fun t => (t.seq, t.spd)) =
      some (.aConfCount, .idle) := by decide
/-- Tick 48651. -/
theorem test_aConfCount_first :
    ran .aConfCount { at' .aConfCount 0 0 with temp := 35, valid := true } (fun t => (t.oorCnt, t.sampIdx, t.seq)) =
      some (1, 1, .aConfGap) := by decide
theorem test_aConfCount_third :
    ran .aConfCount { at' .aConfCount 0 0 with temp := 25, oorCnt := 2, sampIdx := 2 } (fun t => (t.oorCnt, t.sampIdx, t.seq)) =
      some (2, 3, .aConfDecide) := by decide
theorem test_aConfGap : ran .aConfGap (at' .aConfGap 199999 0) (fun t => (t.seq, t.spd)) = some (.aConfPoll, .startLow) := by decide
/-- Tick 496 302. -/
theorem test_aConfDecide_three :
    ran .aConfDecide { at' .aConfDecide 0 0 with oorCnt := 3 } (fun t => (t.alarmT, t.ledNormal, t.seq, t.spd)) =
      some (.sustained, false, .aSustPoll, .startLow) := by decide
/-- V-ALM-1: two of three is not enough. -/
theorem test_aConfDecide_two :
    ran .aConfDecide { at' .aConfDecide 0 0 with oorCnt := 2, alarmT := .confirming } (fun t => (t.alarmT, t.ledNormal, t.curQ, t.seq)) =
      some (.normal, true, .humidity, .eGate) := by decide
theorem test_aSustPoll_returns :
    ran .aSustPoll { poll .ackH 999 false with seq := .aSustPoll } (fun t => (t.seq, t.err)) = some (.aSustChk, .noResponse) := by
  decide
/-- Tick 520 127. -/
theorem test_aSustChk_out :
    ({ at' .aSustChk 0 0 with temp := 35 } : State).outputs.disp = ⟨true, .alarm, .temperature, .low, 35, 0⟩ ∧
    ran .aSustChk { at' .aSustChk 0 0 with temp := 35 } (fun t => (t.ledAlarm, t.seq)) = some (true, .aSustGap) := by decide
/-- Tick 1 167 649. -/
theorem test_aSustChk_in :
    ran .aSustChk { at' .aSustChk 0 0 with temp := 28, ledAlarm := true, ledNormal := false, alarmT := .sustained }
      (fun t => (t.alarmT, t.ledAlarm, t.ledNormal, t.curQ, t.seq)) = some (.normal, false, true, .humidity, .eGate) := by decide
theorem test_aSustGap : ran .aSustGap (at' .aSustGap 299999 0) (fun t => (t.seq, t.spd)) = some (.aSustPoll, .startLow) := by decide

/-! ### The ports -/

/-- `err` 2 = ChecksumMismatch (R31), alarm 2 = Sustained, 1 = Confirming (R32), `seq` 20 and `spd` 8 (R88, R89). -/
theorem test_observation_codes :
    (let o := ({ base with err := .checksumMismatch, alarmT := .sustained, alarmH := .confirming, seq := .aSustPoll,
                           spd := .bitFall } : State).outputs
     (o.errO, o.alarmTO, o.alarmHO, o.seqO, o.spdO)) = (2, 2, 1, 20, 8) := by decide
/-- `DISP20` of the requests at ticks 24736, 1 024 738 and 520 127: `60, 25`; Temperature, High, 30; Temperature, 35. -/
theorem test_disp20 :
    ({ at' .sShow 0 0 with hum := 60, temp := 25 } : State).outputs.disp.word = 0x03C19 ∧
    (at' .cDraw 0 0).outputs.disp.word = 0x51E00 ∧
    ({ at' .aSustChk 0 0 with temp := 35 } : State).outputs.disp.word = 0x82300 := by decide

/-! ### Every tick -/

/-- V-DEB-1: an edge sets the flag at the next tick, whatever runs. -/
theorem test_notify : ticked { at' .sGap 5 0b0001 with btnPrev := 0 } (fun t => (t.pend, t.btnPrev, t.tmr)) = some (0b0001, 0b0001, 6) := by
  decide
/-- V-DEB-2: a button held through reset raises no notification. -/
theorem test_notify_after_reset : ticked (at' .sGap 0 0b0100) (fun t => (t.pend, t.btnPrev)) = some (0, 0b0100) := by decide
/-- Reset wins over the operation (R270). -/
theorem test_reset_wins :
    ticked { at' .cSetUp 999999 0b0001 with pins := ⟨true, true, 0b0001⟩, tempHigh := 41 } (fun t => (t.tempHigh, t.seq, t.btnPrev)) =
      some (30, .sGap, 0b1111) := by decide

/-! ### Traces -/

/-- A fed state sees the given levels in their order. -/
theorem levels_feed (w : List Inputs) (s : State) (k : Nat) (i : Inputs) (h : w[k]? = some i) : levels (feed w s) k = i := by
  cases k with
  | zero => cases w <;> simp_all [levels, feed]
  | succ k => simp [levels, feed, List.getElem?_tail, h]

/-- A fed trace without `rst` is one without a reset. -/
theorem noReset_feed (w : List Inputs) (s : State) (n : Nat) (hn : n ≤ w.length) (h : ∀ i ∈ w, i.rst = false) :
    NoReset n (feed w s) := by
  intro k hk
  have hk' : k < w.length := by omega
  rw [levels_feed w s k w[k] (List.getElem?_eq_getElem hk')]
  exact h _ (List.getElem_mem hk')

/-- The idle levels for `n` ticks hold no reset. -/
theorem noReset_quiet (n m : Nat) (s : State) (h : n ≤ m) : NoReset n (feed (List.replicate m quiet) s) :=
  noReset_feed _ s n (by simpa using h) (by intro i hi; rw [List.eq_of_mem_replicate hi]; rfl)

/-! ### Witnesses: states and operands that meet each statement's hypotheses -/

theorem witness_DecodeOfEncodeGivesTheOperation :
    (Instr.checkOk 60 0 25 0 85).wf = true ∧ (Instr.checkBad 60 0 25 0 86).wf = true ∧ (Instr.enterUpDown true false).wf = true ∧
    (Instr.toggle true .humidity .low).wf = true := by decide

theorem witness_EncodeOfDecodeGivesTheWord :
    decode (.pend4 0b0111) = .ok (.enterMode false true true) ∧ decode (.seq5 22) = .ok .aSustGap ∧ decode (.spd4 9) = .ok .check ∧
    decode (.evt5 31) = .ok (.exit .humidity .high) ∧ decode (.frame40 0) = .ok (.checkOk 0 0 0 0 0) := by
  exact ⟨rfl, rfl, rfl, rfl, rfl⟩

theorem witness_EntryPatternsOfThePendingFlags :
    (0b0100#4 &&& 0b0100 = 0b0100) ∧ (0b0111#4 &&& 0b0100 = 0b0100) ∧
    (0b0011#4 &&& 0b0100 ≠ 0b0100 ∧ 0b0011#4 &&& 0b0011 = 0b0011) ∧
    (0b1001#4 &&& 0b0100 ≠ 0b0100 ∧ 0b1001#4 &&& 0b0011 ≠ 0b0011) := by decide

/-- The sums 0, 255, 256 (which is 0 modulo 256) and 1020, and a sum that is one off. -/
theorem witness_FrameAcceptedIffTheSumAgrees :
    ((0#8).toNat + (0#8).toNat + (0#8).toNat + (0#8).toNat) % 256 = (0#8).toNat ∧
    ((255#8).toNat + (0#8).toNat + (0#8).toNat + (0#8).toNat) % 256 = (255#8).toNat ∧
    ((255#8).toNat + (1#8).toNat + (0#8).toNat + (0#8).toNat) % 256 = (0#8).toNat ∧
    ((255#8).toNat + (255#8).toNat + (255#8).toNat + (255#8).toNat) % 256 = (252#8).toNat ∧
    ((60#8).toNat + (0#8).toNat + (25#8).toNat + (0#8).toNat) % 256 ≠ (86#8).toNat := by decide

theorem witness_StepRunsTheDecodedOperation :
    (at' .cDraw 0 0).pins.rst = false ∧ decode (.seq5 (at' .cDraw 0 0).seq.code) = .ok .cDraw ∧
    exec .cDraw (at' .cDraw 0 0) = .next (at' .cDelay 0 0) ∧ PollConsistent (at' .cDraw 0 0) := by
  exact ⟨rfl, rfl, rfl, by unfold PollConsistent; decide⟩

/-- The poll ends at CHECK and at each wait's last tick on the wrong level, and not on the right level there, one tick before,
or in a `DWELL`. -/
theorem witness_PollingStatesRunTheDecoder :
    (poll .check 0 true).spd = .check ∧
    ((poll .bitFall 999 true).spd = .bitFall ∧ (poll .bitFall 999 true).pins.dqIn = true ∧
      (poll .bitFall 999 true).tmr.toNat = (poll .bitFall 999 true).waitTimeoutTicks - 1) ∧
    ((poll .ackH 999 false).spd = .ackH ∧ (poll .ackH 999 false).pins.dqIn = false ∧
      (poll .ackH 999 false).tmr.toNat = (poll .ackH 999 false).waitTimeoutTicks - 1) ∧
    (poll .ackL1 999 false).pins.dqIn ≠ true ∧
    (poll .ackL1 998 true).tmr.toNat ≠ (poll .ackL1 998 true).waitTimeoutTicks - 1 ∧
    (poll .startLow 19999 true).pollEnds = false ∧ (poll .ackL1 998 true).pollEnds = false := by decide

theorem witness_SettledEventRunsTheDecodedWord : (at' .cSetUp 999999 0b0001).tmr.toNat = 999999 := by decide

theorem witness_NestedWordsSelectTheOperation :
    decode (.pend4 ({ base with pend := 0b0011 } : State).pend) = .ok (.enterUpDown false false) ∧
    decode (.pend4 ({ base with pend := 0b0100 } : State).pend) = .ok (.enterMode false false false) ∧
    decode (.frame40 ({ base with frame := 0x3C00190055 } : State).frame) = .ok (.checkOk 60 0 25 0 85) := by
  exact ⟨rfl, rfl, rfl⟩

theorem witness_IdleDoesNothing : base.spd = .idle := by decide

theorem witness_StartLowDrivesThePinLow :
    (poll .startLow 19999 true).tmr.toNat = 20000 - 1 ∧ (poll .startLow 19998 true).tmr.toNat ≠ 20000 - 1 ∧
    isPolling (poll .startLow 0 true).seq = true ∧ (poll .startLow 0 true).spd = .startLow ∧ (poll .startLow 0 true).tmr = 0 ∧
    NoReset 20000 (feed (List.replicate 20000 quiet) (poll .startLow 0 true)) :=
  ⟨rfl, by decide, rfl, rfl, rfl, noReset_quiet _ _ _ (by omega)⟩

theorem witness_StartHighDrivesThePinHigh :
    (poll .startHigh 19 true).tmr.toNat = 20 - 1 ∧ (poll .startHigh 18 true).tmr.toNat ≠ 20 - 1 ∧
    isPolling (poll .startHigh 0 true).seq = true ∧ (poll .startHigh 0 true).spd = .startHigh ∧
    (poll .startHigh 0 true).tmr = 0 ∧ NoReset 20 (feed (List.replicate 20 quiet) (poll .startHigh 0 true)) :=
  ⟨rfl, by decide, rfl, rfl, rfl, noReset_quiet _ _ _ (by omega)⟩

/-- The three clauses of a wait for low: the level at the last tick, the timeout, and one tick before it. -/
theorem witness_HandshakeAwaitsLowHighLow :
    (poll .ackL1 999 false).pins.dqIn = false ∧
    ((poll .ackL1 999 true).pins.dqIn ≠ false ∧ (poll .ackL1 999 true).tmr.toNat = (poll .ackL1 999 true).waitTimeoutTicks - 1) ∧
    ((poll .ackL2 998 true).pins.dqIn ≠ false ∧ (poll .ackL2 998 true).tmr.toNat ≠ (poll .ackL2 998 true).waitTimeoutTicks - 1) ∧
    (poll .ackH 999 true).pins.dqIn = true ∧
    ((poll .ackH 999 false).pins.dqIn ≠ true ∧ (poll .ackH 999 false).tmr.toNat = (poll .ackH 999 false).waitTimeoutTicks - 1) ∧
    ((poll .ackH 998 false).pins.dqIn ≠ true ∧ (poll .ackH 998 false).tmr.toNat ≠ (poll .ackH 998 false).waitTimeoutTicks - 1) ∧
    (poll .ackL2 0 true).spd = .ackL2 := by decide

theorem witness_BitRiseAwaitsHigh :
    (poll .bitRise 999 true).pins.dqIn = true ∧
    ((poll .bitRise 999 false).pins.dqIn ≠ true ∧
      (poll .bitRise 999 false).tmr.toNat = (poll .bitRise 999 false).waitTimeoutTicks - 1) ∧
    ((poll .bitRise 998 false).pins.dqIn ≠ true ∧
      (poll .bitRise 998 false).tmr.toNat ≠ (poll .bitRise 998 false).waitTimeoutTicks - 1) ∧
    (poll .bitRise 0 true).spd = .bitRise := by decide

theorem witness_BitDelaySamplesAtItsLastTick :
    ((poll .bitDelay 28 true).tmr.toNat = 28 ∧ ({ poll .bitDelay 28 true with bitcnt := 39 } : State).bitcnt.toNat + 1 < 64) ∧
    (poll .bitDelay 27 true).tmr.toNat ≠ 28 ∧ (poll .bitDelay 0 true).spd = .bitDelay := by decide

theorem witness_BitFallAwaitsLow :
    ({ poll .bitFall 0 false with bitcnt := 40 } : State).bitcnt.toNat = 40 ∧
    ({ poll .bitFall 0 false with bitcnt := 39 } : State).bitcnt.toNat ≠ 40 ∧
    (poll .bitFall 999 false).pins.dqIn = false ∧
    ((poll .bitFall 999 true).pins.dqIn ≠ false ∧
      (poll .bitFall 999 true).tmr.toNat = (poll .bitFall 999 true).waitTimeoutTicks - 1) ∧
    ((poll .bitFall 998 true).pins.dqIn ≠ false ∧
      (poll .bitFall 998 true).tmr.toNat ≠ (poll .bitFall 998 true).waitTimeoutTicks - 1) := by decide

theorem witness_CheckStoresOnlyAGoodFrame :
    (({ poll .check 0 true with frame := 0x3C00190055 } : State).frame = 60#8 ++ 0#8 ++ 25#8 ++ 0#8 ++ 85#8 ∧
      ((60#8).toNat + (0#8).toNat + (25#8).toNat + (0#8).toNat) % 256 = (85#8).toNat) ∧
    (({ poll .check 0 true with frame := 0x3C00190056 } : State).frame = 60#8 ++ 0#8 ++ 25#8 ++ 0#8 ++ 86#8 ∧
      ((60#8).toNat + (0#8).toNat + (25#8).toNat + (0#8).toNat) % 256 ≠ (86#8).toNat) ∧
    (poll .check 0 true).spd = .check := by decide

/-- With `LOOP_GAP_TICKS = 1000`, and with the smallest value 1, the last tick; and a tick before the last. -/
theorem witness_GapThenPoll :
    (at' .sGap 999 0).tmr.toNat = (at' .sGap 999 0).loopGapTicks - 1 ∧
    ({ at' .sGap 0 0 with loopGapLast := 0 } : State).tmr.toNat = ({ at' .sGap 0 0 with loopGapLast := 0 } : State).loopGapTicks - 1 ∧
    (at' .sGap 998 0).tmr.toNat ≠ (at' .sGap 998 0).loopGapTicks - 1 := by decide

theorem witness_ShowRequestsTheReading :
    ((at' .sShow 0 0).seq = .sShow ∧ (at' .sShow 0 0).err = .none) ∧
    ({ at' .sShow 0 0 with err := .noResponse } : State).err ≠ .none := by decide

theorem witness_EntryClearsTheTriggersFlags :
    ((0b0111#4).getLsbD 0 = true ∧ (0b0111#4).getLsbD 1 = true ∧ (0b0111#4).getLsbD 2 = true) ∧
    ((0b1011#4).getLsbD 0 = true ∧ (0b1011#4).getLsbD 1 = true ∧ (0b1011#4).getLsbD 2 = false) ∧
    (¬ ((0b0101#4).getLsbD 0 = true ∧ (0b0101#4).getLsbD 1 = true) ∧ (0b0101#4).getLsbD 2 = true) ∧
    (¬ ((0b1010#4).getLsbD 0 = true ∧ (0b1010#4).getLsbD 1 = true) ∧ (0b1010#4).getLsbD 2 = false) ∧
    ({ base with pend := 0b0111 } : State).pend = 0b0111 := by decide

theorem witness_EntrySettlesToTemperatureHigh :
    (at' .sEntrySettle 999999 0).tmr.toNat = 1000000 - 1 ∧ (at' .sEntrySettle 999998 0).tmr.toNat ≠ 1000000 - 1 := by decide

theorem witness_DrawRequestsTheSelection :
    ((at' .cDraw 0 0).seq = .cDraw ∧ (at' .cDraw 0 0).selQ = .temperature ∧ (at' .cDraw 0 0).selB = .high) ∧
    ({ at' .cDraw 0 0 with selB := .low } : State).selB = .low ∧
    (({ at' .cDraw 0 0 with selQ := .humidity } : State).selQ = .humidity ∧
      ({ at' .cDraw 0 0 with selQ := .humidity } : State).selB = .high) ∧
    (({ at' .cDraw 0 0 with selQ := .humidity, selB := .low } : State).selQ = .humidity ∧
      ({ at' .cDraw 0 0 with selQ := .humidity, selB := .low } : State).selB = .low) := by decide

theorem witness_RefreshDelayThenChecks :
    (at' .cDelay 199999 0).tmr.toNat = 200000 - 1 ∧ (at' .cDelay 199998 0).tmr.toNat ≠ 200000 - 1 := by decide

theorem witness_ToggleFlipsTheQuantity :
    (at' .cSetMode 999999 0).tmr.toNat = 1000000 - 1 ∧ (at' .cSetMode 0 0).tmr.toNat ≠ 1000000 - 1 := by decide

/-- A tap, and a held button with each of the four selections. -/
theorem witness_UpEventSelectsOrIncrements :
    (at' .cSetUp 999999 0b1110).pins.btn.getLsbD 0 = false ∧
    ((at' .cSetUp 999999 0b0001).pins.btn.getLsbD 0 = true ∧ (at' .cSetUp 999999 0b0001).selQ = .temperature ∧
      (at' .cSetUp 999999 0b0001).selB = .high) ∧
    ({ base with selB := .low } : State).selB = .low ∧ ({ base with selQ := .humidity } : State).selQ = .humidity ∧
    ((at' .cSetUp 999999 0).tmr.toNat = 1000000 - 1 ∧ (at' .cSetUp 999998 0).tmr.toNat ≠ 1000000 - 1) := by decide

theorem witness_DownEventSelectsOrDecrements :
    (at' .cSetDown 999999 0b1101).pins.btn.getLsbD 1 = false ∧
    ((at' .cSetDown 999999 0b0010).pins.btn.getLsbD 1 = true ∧ (at' .cSetDown 999999 0b0010).selQ = .temperature ∧
      (at' .cSetDown 999999 0b0010).selB = .high) ∧
    ({ base with selB := .low } : State).selB = .low ∧ ({ base with selQ := .humidity } : State).selQ = .humidity ∧
    ((at' .cSetDown 999999 0).tmr.toNat = 1000000 - 1 ∧ (at' .cSetDown 999998 0).tmr.toNat ≠ 1000000 - 1) := by decide

theorem witness_OkEventLeavesOnlyWhenHeld :
    (at' .cSetOk 999999 0b1000).tmr.toNat = 1000000 - 1 ∧ (at' .cSetOk 999998 0b1000).tmr.toNat ≠ 1000000 - 1 := by decide

/-- Each guard at the last value that meets it and the first that does not. -/
theorem witness_IncrementsStepUnderTheirGuards :
    ({ base with tempHigh := 49 } : State).tempHigh.toNat < 50 ∧ 50 ≤ ({ base with tempHigh := 50 } : State).tempHigh.toNat ∧
    ({ base with tempLow := 29 } : State).tempLow.toNat < ({ base with tempLow := 29 } : State).tempHigh.toNat ∧
    ({ base with tempLow := 30 } : State).tempHigh.toNat ≤ ({ base with tempLow := 30 } : State).tempLow.toNat ∧
    ({ base with humHigh := 80 } : State).humHigh.toNat + 10 ≤ 90 ∧ 90 < ({ base with humHigh := 81 } : State).humHigh.toNat + 10 ∧
    (({ base with humLow := 60 } : State).humLow.toNat + 10 ≤ ({ base with humLow := 60 } : State).humHigh.toNat ∧
      ({ base with humLow := 60 } : State).humLow.toNat + 10 ≤ 90) ∧
    ¬ (({ base with humLow := 61 } : State).humLow.toNat + 10 ≤ ({ base with humLow := 61 } : State).humHigh.toNat ∧
      ({ base with humLow := 61 } : State).humLow.toNat + 10 ≤ 90) := by decide

/-- Each guard at the last value that meets it and the first that does not. -/
theorem witness_DecrementsStepUnderTheirGuards :
    ({ base with tempHigh := 21 } : State).tempLow.toNat < ({ base with tempHigh := 21 } : State).tempHigh.toNat ∧
    ({ base with tempHigh := 20 } : State).tempHigh.toNat ≤ ({ base with tempHigh := 20 } : State).tempLow.toNat ∧
    0 < ({ base with tempLow := 1 } : State).tempLow.toNat ∧ ({ base with tempLow := 0 } : State).tempLow.toNat = 0 ∧
    (({ base with humHigh := 60 } : State).humLow.toNat + 10 ≤ ({ base with humHigh := 60 } : State).humHigh.toNat ∧
      20 ≤ ({ base with humHigh := 60 } : State).humHigh.toNat) ∧
    ¬ (({ base with humHigh := 59 } : State).humLow.toNat + 10 ≤ ({ base with humHigh := 59 } : State).humHigh.toNat ∧
      20 ≤ ({ base with humHigh := 59 } : State).humHigh.toNat) ∧
    20 ≤ ({ base with humLow := 20 } : State).humLow.toNat ∧ ({ base with humLow := 19 } : State).humLow.toNat < 20 := by decide

/-- A valid reading of 35 °C at temperature's gate, one of 80 % at humidity's, and readings that pass on: none made, and one on
the threshold. -/
theorem witness_GateOpensOnAValidOutOfRangeReading :
    (({ base with temp := 35, valid := true } : State).valid = true ∧
      ({ base with temp := 35, valid := true } : State).oor .temperature = true ∧ base.curQ = .temperature) ∧
    (({ base with hum := 80, valid := true, curQ := .humidity } : State).oor .humidity = true ∧
      ({ base with hum := 80, valid := true, curQ := .humidity } : State).curQ = .humidity) ∧
    ¬ (base.valid = true ∧ base.oor base.curQ = true) ∧
    ¬ (({ base with hum := 70, valid := true, curQ := .humidity } : State).valid = true ∧
      ({ base with hum := 70, valid := true, curQ := .humidity } : State).oor .humidity = true) := by decide

/-- The third sample of three, all out of range; and a sample in range. -/
theorem witness_ConfirmationCountsThreeSamples :
    (({ base with temp := 35, oorCnt := 2, sampIdx := 2 } : State).sampIdx.toNat < 3 ∧
      ({ base with temp := 35, oorCnt := 2, sampIdx := 2 } : State).oor .temperature = true ∧
      ({ base with temp := 35, oorCnt := 2, sampIdx := 2 } : State).oorCnt.toNat < 3) ∧
    ({ base with temp := 25 } : State).oor base.curQ = false := by decide

theorem witness_EvaluatorGapsThenPoll :
    ((at' .aConfGap 199999 0).tmr.toNat = 200000 - 1 ∧ (at' .aConfGap 199998 0).tmr.toNat ≠ 200000 - 1) ∧
    ((at' .aSustGap 299999 0).tmr.toNat = 300000 - 1 ∧ (at' .aSustGap 299998 0).tmr.toNat ≠ 300000 - 1) := by decide

theorem witness_ThreeOfThreeSustains :
    (({ base with oorCnt := 3 } : State).oorCnt.toNat = 3 ∧ base.curQ = .temperature) ∧
    ({ base with oorCnt := 3, curQ := .humidity } : State).curQ = .humidity ∧
    ({ base with oorCnt := 2 } : State).oorCnt.toNat ≠ 3 := by decide

theorem witness_SustainedTogglesUntilInRange :
    (({ at' .aSustChk 0 0 with temp := 31 } : State).oor .temperature = true ∧ (at' .aSustChk 0 0).seq = .aSustChk) ∧
    (({ at' .aSustChk 0 0 with temp := 30 } : State).oor .temperature = false ∧ (at' .aSustChk 0 0).curQ = .temperature) ∧
    (({ at' .aSustChk 0 0 with hum := 50, curQ := .humidity } : State).oor .humidity = false ∧
      ({ at' .aSustChk 0 0 with hum := 50, curQ := .humidity } : State).curQ = .humidity) := by decide

theorem witness_ResetGivesEveryRegisterItsValue : ({ base with pins := ⟨true, true, 0⟩ } : State).pins.rst = true := by decide

/-- Each code of `err` and of the alarms, each request, and none. -/
theorem witness_OutputsAreFunctionsOfTheState :
    base.err = .none ∧ ({ base with err := .noResponse } : State).err = .noResponse ∧
    ({ base with err := .checksumMismatch } : State).err = .checksumMismatch ∧
    (base.alarmT = .normal ∧ base.alarmH = .normal) ∧
    ({ base with alarmT := .confirming } : State).alarmT = .confirming ∧
    ({ base with alarmT := .sustained } : State).alarmT = .sustained ∧
    ({ base with alarmH := .confirming } : State).alarmH = .confirming ∧
    ({ base with alarmH := .sustained } : State).alarmH = .sustained ∧
    ((at' .sShow 0 0).seq = .sShow ∧ (at' .sShow 0 0).err = .none) ∧ (at' .cDraw 0 0).seq = .cDraw ∧
    ((at' .aSustChk 0 0).seq = .aSustChk ∧ ({ at' .aSustChk 0 0 with temp := 31 } : State).oor .temperature = true) ∧
    base.outputs.disp.stb = false := by decide

/-- The sustained phase with the alarm indicator lit, a state far from reset. -/
def alarmed : State :=
  { at' .aSustGap 299999 0 with
    alarmT := .sustained, ledNormal := false, ledAlarm := true, valid := true, temp := 35, oorCnt := 3, sampIdx := 3 }

theorem alarmed_inv : Inv alarmed where
  poll := by unfold PollConsistent; decide
  thresholds := by unfold ThresholdsInBounds; decide
  alarms := by unfold AlarmsFollowPhase; decide
  indicators := by unfold IndicatorsFollowPhase; decide
  valid := by unfold EvaluatesValidReading; decide
  counts := by unfold CountsInRange; decide
  timer := by unfold TimerInRange; decide
  frame := ⟨by decide, by decide, trivial⟩

/-- The first tick of the main loop's poll. -/
def polling : State := poll .startLow 0 true

theorem polling_inv : Inv polling where
  poll := by unfold PollConsistent; decide
  thresholds := by unfold ThresholdsInBounds; decide
  alarms := by unfold AlarmsFollowPhase; decide
  indicators := by unfold IndicatorsFollowPhase; decide
  valid := by unfold EvaluatesValidReading; decide
  counts := by unfold CountsInRange; decide
  timer := by unfold TimerInRange; decide
  frame := ⟨by decide, by decide, rfl⟩

theorem witness_EveryTickKeepsTheInvariant : Inv alarmed ∧ ∃ t, step alarmed = .next t := ⟨alarmed_inv, _, rfl⟩

theorem witness_EveryTickKeepsTheThresholdsInBounds :
    ThresholdsInBounds { at' .cSetUp 999999 0b0001 with tempHigh := 49, tempLow := 49, humLow := 90, humHigh := 90 } ∧
    ∃ t, step { at' .cSetUp 999999 0b0001 with tempHigh := 49, tempLow := 49, humLow := 90, humHigh := 90 } = .next t :=
  ⟨by unfold ThresholdsInBounds; decide, _, rfl⟩

theorem witness_PendingFlagsAndEdges : (at' .cChkOk 0 0b1000).pins.rst = false := by decide

theorem witness_NotificationsDoNotDisturbTheMainThread :
    (poll .bitDelay 28 true).pins.rst = false ∧
    (poll .bitDelay 28 true).seq ∉ [SeqState.sEntry, .cChkMode, .cChkUp, .cChkDown, .cChkOk, .cSetUp, .cSetDown, .cSetOk] ∧
    ∃ t, step (poll .bitDelay 28 true) = .next t :=
  ⟨rfl, by decide, _, rfl⟩

/-- Each alternative, BIT_DELAY at both neighbours of its sample tick. -/
theorem witness_SensorPinIsIgnoredWhereItIsNotRead :
    base.spd = .idle ∧ (poll .startLow 0 true).spd = .startLow ∧ (poll .startHigh 0 true).spd = .startHigh ∧
    (poll .check 0 true).spd = .check ∧
    ((poll .bitDelay 27 true).spd = .bitDelay ∧ (poll .bitDelay 27 true).tmr.toNat ≠ 28) ∧
    (poll .bitDelay 29 true).tmr.toNat ≠ 28 := by decide

theorem witness_ReadingChangesOnlyAtAGoodCheck :
    (∃ t, step { poll .check 0 true with frame := 0x3C00190055 } = .next t) ∧ (poll .check 0 true).pins.rst = false ∧
    (poll .check 0 true).spd = .check ∧ frameGood 0x3C00190055 = true ∧ frameGood 0x3C00190056 = false ∧
    (poll .ackL1 999 true).spd ≠ .check :=
  ⟨⟨_, rfl⟩, rfl, rfl, by decide, by decide, by decide⟩

theorem witness_ThresholdsChangeOnlyByAHeldButton :
    (at' .cSetUp 999999 0b0001).pins.rst = false ∧
    ∃ t, step (at' .cSetUp 999999 0b0001) = .next t ∧
      t.threshold .temperature .high ≠ (at' .cSetUp 999999 0b0001).threshold .temperature .high :=
  ⟨rfl, _, rfl, by decide⟩

/-- Configuring, on the tick of the exit; and the settle delay on entry. -/
theorem witness_ConfiguringBlocksAndLeavesOnlyByExit :
    ((at' .cSetOk 999999 0b1000).pins.rst = false ∧ PollConsistent (at' .cSetOk 999999 0b1000) ∧
      isConfiguring (at' .cSetOk 999999 0b1000).seq = true ∧
      ∃ t, step (at' .cSetOk 999999 0b1000) = .next t ∧ isConfiguring t.seq = false) ∧
    (PollConsistent (at' .sEntrySettle 0 0) ∧ (at' .sEntrySettle 0 0).seq = .sEntrySettle ∧
      ∃ t, step (at' .sEntrySettle 0 0) = .next t) :=
  ⟨⟨rfl, by unfold PollConsistent; decide, rfl, _, rfl, by decide⟩, by unfold PollConsistent; decide, rfl, _, rfl⟩

theorem witness_AlarmsChangeOnlyWhereTheEvaluatorSays :
    (at' .aConfDecide 0 0).pins.rst = false ∧
    ∃ t, step { at' .aConfDecide 0 0 with oorCnt := 3, alarmT := .confirming } = .next t ∧
      t.alarm .temperature ≠ ({ at' .aConfDecide 0 0 with oorCnt := 3, alarmT := .confirming } : State).alarm .temperature :=
  ⟨rfl, _, rfl, by decide⟩

theorem witness_SustainedIsLeftOnlyInRange :
    alarmed.pins.rst = false ∧ isSustained alarmed.seq = true ∧ ∃ t, step alarmed = .next t := ⟨rfl, by decide, _, rfl⟩

/-- The end of a pass with no reading made, and with one in range. -/
theorem witness_QuietPassReachesTheGapInFourTicks :
    NoReset 4 (feed (List.replicate 4 quiet) (at' .sShow 0 0)) ∧ PollConsistent (at' .sShow 0 0) ∧
    (at' .sShow 0 0).seq = .sShow ∧ (at' .sShow 0 0).curQ = .temperature ∧
    entryTrigger ((at' .sShow 0 0).edges ||| (at' .sShow 0 0).pend) = false ∧ (at' .sShow 0 0).valid = false ∧
    (({ at' .sShow 0 0 with hum := 50, temp := 30, valid := true } : State).oor .temperature = false ∧
      ({ at' .sShow 0 0 with hum := 50, temp := 30, valid := true } : State).oor .humidity = false) :=
  ⟨noReset_quiet _ _ _ (by omega), by unfold PollConsistent; decide, rfl, rfl, by decide, rfl, by decide, by decide⟩

theorem witness_TimedSequencerStatesLastExactlyTheirTicks :
    ∀ q ∈ [SeqState.sGap, .sEntrySettle, .cDelay, .cSetMode, .cSetUp, .cSetDown, .cSetOk, .aConfGap, .aSustGap],
      NoReset (seqTicks (at' q 0 0)) (feed (List.replicate (seqTicks (at' q 0 0)) quiet) (at' q 0 0)) ∧
      PollConsistent (at' q 0 0) ∧ (at' q 0 0).tmr = 0 := by
  intro q hq
  refine ⟨noReset_quiet _ _ _ (Nat.le_refl _), ?_, rfl⟩
  revert q
  unfold PollConsistent
  decide

/-- A pulse of `d` high ticks and low after it, 60 ticks in all. -/
def pulse (d : Nat) : List Inputs :=
  List.replicate d quiet ++ List.replicate (60 - d) ⟨false, false, 0⟩

/-- The pulse widths on both sides of the boundary, 29 and 30. -/
theorem witness_PulseWidthDecidesTheBit :
    ∀ d ∈ [29, 30],
      isPolling (feed (pulse d) (poll .bitRise 0 true)).seq = true ∧ (feed (pulse d) (poll .bitRise 0 true)).spd = .bitRise ∧
      (feed (pulse d) (poll .bitRise 0 true)).bitcnt.toNat < 63 ∧ NoReset 30 (feed (pulse d) (poll .bitRise 0 true)) ∧
      (feed (pulse d) (poll .bitRise 0 true)).pins.dqIn = true ∧ 1 ≤ d ∧
      (∀ k, k < d → (levels (feed (pulse d) (poll .bitRise 0 true)) k).dqIn = true) ∧
      (∀ k, d ≤ k → k ≤ 29 → (levels (feed (pulse d) (poll .bitRise 0 true)) k).dqIn = false) := by
  have all : ∀ d ∈ [29, 30], (∀ i ∈ pulse d, i.rst = false) ∧ 30 ≤ (pulse d).length ∧
      (∀ k, k < d → (pulse d)[k]? = some quiet) ∧ (∀ k, k < 30 → d ≤ k → (pulse d)[k]? = some ⟨false, false, 0⟩) := by decide
  intro d hd
  obtain ⟨h1, h2, h3, h4⟩ := all d hd
  refine ⟨rfl, rfl, (by decide : (0#6).toNat < 63), noReset_feed _ _ _ h2 h1, ?_, ?_, fun k hk => ?_, fun k hk hk' => ?_⟩
  · revert d; decide
  · revert d; decide
  · rw [levels_feed _ _ k _ (h3 k hk)]; rfl
  · rw [levels_feed _ _ k _ (h4 k (by omega) hk)]

/-- A line that stays high after the release: ACK_L1 awaits low. -/
theorem witness_SilentWaitEndsInNoResponse :
    isPolling (poll .ackL1 0 true).seq = true ∧ awaitedLevel (poll .ackL1 0 true).spd = some false ∧
    (poll .ackL1 0 true).tmr = 0 ∧
    NoReset (poll .ackL1 0 true).waitTimeoutTicks (feed (List.replicate 1000 quiet) (poll .ackL1 0 true)) ∧
    (∀ k, k < (poll .ackL1 0 true).waitTimeoutTicks →
      (levels (feed (List.replicate 1000 quiet) (poll .ackL1 0 true)) k).dqIn = !false) := by
  refine ⟨rfl, rfl, rfl, noReset_quiet _ _ _ (Nat.le_refl 1000), fun k hk => ?_⟩
  rw [levels_feed _ _ k quiet (by rw [List.getElem?_replicate]; exact if_pos hk)]
  rfl

/-- The trace does not enter the invariant, so a fed state meets it too. -/
theorem witness_EveryPollEndsWithinItsBound :
    Inv (feed (List.replicate 104181 quiet) polling) ∧ (feed (List.replicate 104181 quiet) polling).spd = .startLow ∧
    (feed (List.replicate 104181 quiet) polling).tmr = 0 ∧
    NoReset (20000 + 20 + 83 * polling.waitTimeoutTicks + 40 * 29 + 1) (feed (List.replicate 104181 quiet) polling) := by
  refine ⟨?_, rfl, rfl, noReset_quiet _ _ _ (by decide)⟩
  obtain ⟨a, b, c, d, e, f, g, h⟩ := polling_inv
  exact ⟨a, b, c, d, e, f, g, h⟩

/-- The shortest readable shape at a timeout of 1000 ticks, with the pulses on both sides of the boundary. -/
def tight : Shape := ⟨0, 1, 1, 2, 29, 30, 2⟩

/-- The levels of that shape for the frame `60 0 25 0 85`, and idle levels after it. -/
def answer : List Inputs :=
  (answerWave tight 0x3C00190055).map (fun level => ⟨false, level, 0⟩) ++ List.replicate 3000 quiet

theorem witness_WholePollReadsTheFrame :
    isPolling (feed answer (poll .ackL1 0 true)).seq = true ∧ (feed answer (poll .ackL1 0 true)).spd = .ackL1 ∧
    (feed answer (poll .ackL1 0 true)).tmr = 0 ∧ (feed answer (poll .ackL1 0 true)).bitcnt = 0 ∧
    ShapeReadable tight (poll .ackL1 0 true).waitTimeoutTicks ∧
    NoReset (checkTick tight 0x3C00190055 + 1) (feed answer (poll .ackL1 0 true)) ∧
    (∀ k level, (answerWave tight 0x3C00190055)[k]? = some level →
      (levels (feed answer (poll .ackL1 0 true)) k).dqIn = level) ∧
    frameGood 0x3C00190055 = true := by
  refine ⟨rfl, rfl, rfl, rfl, by unfold ShapeReadable; decide, ?_, fun k level hk => ?_, by decide⟩
  · refine noReset_feed _ _ _ ?_ ?_
    · have h : checkTick tight 0x3C00190055 + 1 ≤ 3000 := by decide
      have hl : answer.length = (answerWave tight 0x3C00190055).length + 3000 := by
        rw [answer, List.length_append, List.length_map, List.length_replicate]
      omega
    · intro i hi
      rcases List.mem_append.mp hi with h | h
      · obtain ⟨l, -, rfl⟩ := List.mem_map.mp h; rfl
      · rw [List.eq_of_mem_replicate h]; rfl
  · have hlt : k < (answerWave tight 0x3C00190055).length := by
      by_contra h
      rw [List.getElem?_eq_none (by omega)] at hk
      cases hk
    rw [levels_feed answer _ k ⟨false, level, 0⟩]
    unfold answer
    rw [List.getElem?_append_left (by simpa using hlt), List.getElem?_map, hk]
    rfl

end Sys2Proof.Tests
end

