-- ==== Sys2Proof/Proofs/TimedStates.lean ====
section
/-! The timed sequencer states as runs (00_scope.md R12; 30_encoding.md R88): each is a `DWELL` of `seqTicks` ticks, so one
tick in it counts the timer on before the last tick and leaves at the last. -/

namespace Sys2Proof.Proofs

open Sys2Proof.Machine Sys2Proof.Safety Sys2Proof.Laws

/-- The sequencer states that last a fixed number of ticks (R88). -/
def timedSeqStates : List SeqState :=
  [.sGap, .sEntrySettle, .cDelay, .cSetMode, .cSetUp, .cSetDown, .cSetOk, .aConfGap, .aSustGap]

/-- An OK event is a transfer alone (R183). -/
theorem okEvent_eq_goSeq (s : State) : okEvent s = s.goSeq (if s.held .ok then .eGate else .cDraw) := by
  unfold okEvent
  split <;> rfl

/-- How long a state lasts depends on its name and the loop gap's length alone. -/
theorem seqTicks_congr {s t : State} (hseq : t.seq = s.seq) (hgap : t.loopGapLast = s.loopGapLast) :
    seqTicks t = seqTicks s := by
  unfold seqTicks State.loopGapTicks
  rw [hseq, hgap]

/-- Every state lasts at least a tick, and none longer than the timer's 20 bits can count (R8, R27). -/
theorem seqTicks_bounds (s : State) : 1 ≤ seqTicks s ∧ seqTicks s ≤ 2 ^ 20 := by
  have hgap := s.loopGapLast.isLt
  unfold seqTicks State.loopGapTicks
  cases s.seq <;> simp only <;> omega

/-- The operation of a timed state is a `DWELL` of its ticks, whose exit is a transition to another state. -/
theorem exec_timed_eq_dwell (s : State) (h : s.seq ∈ timedSeqStates) :
    ∃ leave : State, exec s.seq.instr s = .next (s.dwell (seqTicks s) leave) ∧ leave.seq ≠ s.seq ∧ leave.tmr = 0 := by
  unfold seqTicks
  simp only [timedSeqStates, List.mem_cons, List.not_mem_nil, or_false] at h
  obtain h | h | h | h | h | h | h | h | h := h <;> rw [h]
  · exact ⟨s.startPoll .sPoll, rfl, by simp, rfl⟩
  · exact ⟨{ s.goSeq .cDraw with selQ := .temperature, selB := .high }, rfl, by simp, rfl⟩
  · exact ⟨s.goSeq .cChkMode, rfl, by simp, rfl⟩
  · exact ⟨(evtToggle s).goSeq .cChkUp, rfl, by simp, rfl⟩
  · exact ⟨(upEvent s).goSeq .cChkDown, rfl, by simp, rfl⟩
  · exact ⟨(downEvent s).goSeq .cChkOk, rfl, by simp, rfl⟩
  · refine ⟨okEvent s, rfl, ?_, ?_⟩ <;> rw [okEvent_eq_goSeq]
    · split <;> simp
    · rfl
  · exact ⟨s.startPoll .aConfPoll, rfl, by simp, rfl⟩
  · exact ⟨s.startPoll .aSustPoll, rfl, by simp, rfl⟩

/-- One tick of a timed state: the `DWELL`, NOTIFY and time, with nothing joined. -/
theorem step_timed (s : State) (hr : s.pins.rst = false) (hp : PollConsistent s) (h : s.seq ∈ timedSeqStates) :
    ∃ leave : State, step s = .next (s.passTime (s.notify (s.dwell (seqTicks s) leave))) ∧
      leave.seq ≠ s.seq ∧ leave.tmr = 0 := by
  obtain ⟨leave, hexec, hseq, htmr⟩ := exec_timed_eq_dwell s h
  refine ⟨leave, ?_, hseq, htmr⟩
  rw [step_of_rst_low s hr, runTick_of_exec _ _ _ hexec, withDecoder_of_pollConsistent _ _ hp]

/-- `t` is `k` ticks into the timed state that `s` is the first tick of. -/
structure DwellsAt (s : State) (k : Nat) (t : State) : Prop where
  seq : t.seq = s.seq
  spd : t.spd = s.spd
  gap : t.loopGapLast = s.loopGapLast
  tmr : t.tmr.toNat = k

/-- `DwellsAt` keeps the decoder consistent with the state. -/
theorem DwellsAt.pollConsistent {s t : State} {k : Nat} (h : DwellsAt s k t) (hp : PollConsistent s) :
    PollConsistent t := by
  unfold PollConsistent
  rw [h.seq, h.spd]
  exact hp

/-- Before its last tick a timed state counts on. -/
theorem step_dwellsAt {s t : State} {k : Nat} (hr : t.pins.rst = false) (hp : PollConsistent s)
    (h : s.seq ∈ timedSeqStates) (hd : DwellsAt s k t) (hk : k + 1 < seqTicks s) :
    ∃ u, step t = .next u ∧ DwellsAt s (k + 1) u := by
  have hn : seqTicks t = seqTicks s := seqTicks_congr hd.seq hd.gap
  have hmax := (seqTicks_bounds s).2
  have htmr := hd.tmr
  obtain ⟨leave, hstep, -, -⟩ := step_timed t hr (hd.pollConsistent hp) (hd.seq ▸ h)
  obtain ⟨hlast, -⟩ | ⟨-, hcount⟩ := dwell_cases t leave (seqTicks t)
  · omega
  · rw [hcount] at hstep
    have hnext : (nextTmr t.tmr).toNat = k + 1 := by rw [nextTmr_toNat _ (by omega), htmr]
    exact ⟨_, hstep, hd.seq, hd.spd, hd.gap, hnext⟩

/-- At its last tick a timed state is left, with the timer back at 0. -/
theorem step_dwellsAt_last {s t : State} {k : Nat} (hr : t.pins.rst = false) (hp : PollConsistent s)
    (h : s.seq ∈ timedSeqStates) (hd : DwellsAt s k t) (hk : k + 1 = seqTicks s) :
    ∃ u, step t = .next u ∧ u.seq ≠ s.seq ∧ u.tmr = 0 := by
  have hn : seqTicks t = seqTicks s := seqTicks_congr hd.seq hd.gap
  have htmr := hd.tmr
  obtain ⟨leave, hstep, hseq, hzero⟩ := step_timed t hr (hd.pollConsistent hp) (hd.seq ▸ h)
  obtain ⟨-, hleave⟩ | ⟨hlast, -⟩ := dwell_cases t leave (seqTicks t)
  · rw [hleave] at hstep
    exact ⟨_, hstep, hd.seq ▸ hseq, hzero⟩
  · omega

/-- The level of `rst` that a run's state reads is that of the trace it started with. -/
theorem rst_low_of_runTicks {s t : State} {j n : Nat} (hrst : NoReset n s) (hrun : runTicks j s = .next t) (hj : j < n) :
    t.pins.rst = false := by
  have hlevel : levels t 0 = levels s j := levels_runTicks j s t hrun 0
  exact (congrArg Inputs.rst hlevel).trans (hrst j hj)

/-- From the first tick of a timed state, every tick before the state's end is a tick in it. -/
theorem runTicks_dwellsAt (s : State) (hrst : NoReset (seqTicks s) s) (hp : PollConsistent s) (h0 : s.tmr = 0)
    (h : s.seq ∈ timedSeqStates) (k : Nat) (hk : k < seqTicks s) : ∃ t, runTicks k s = .next t ∧ DwellsAt s k t := by
  refine runTicks_induct (DwellsAt s) (seqTicks s - 1) s ⟨rfl, rfl, rfl, by rw [h0]; rfl⟩ ?_ k (by omega)
  intro j t hj hrun hd
  exact step_dwellsAt (rst_low_of_runTicks hrst hrun (by omega)) hp h hd (by omega)

/-- Settles O55: the timer counts by induction on the ticks, and one more tick at the last of them leaves the state. -/
theorem timedSequencerStatesLastExactlyTheirTicks : Obligations.TimedSequencerStatesLastExactlyTheirTicks := by
  intro s hrst hp h0 h
  refine ⟨fun k hk => ?_, ?_⟩
  · obtain ⟨t, hrun, hd⟩ := runTicks_dwellsAt s hrst hp h0 h k hk
    exact ⟨t, hrun, hd.seq, hd.tmr⟩
  · obtain ⟨n, hn⟩ := Nat.exists_eq_add_of_le' (seqTicks_bounds s).1
    have hlt : n < seqTicks s := by omega
    obtain ⟨t, hrun, hd⟩ := runTicks_dwellsAt s hrst hp h0 h n hlt
    obtain ⟨u, hstep, hseq, htmr⟩ :=
      step_dwellsAt_last (rst_low_of_runTicks hrst hrun hlt) hp h hd hn.symm
    exact ⟨u, hn ▸ runTicks_snoc n s t u hrun hstep, hseq, htmr⟩

end Sys2Proof.Proofs
end

