-- ==== Sys2Proof/Proofs/Thresholds.lean ====
section
/-! The button events as one write of the selected threshold (43_threshold_config_fsm.md R170 to R182): a held UP raises it by
a step if it stays under its limit, a held DOWN lowers it by a step if it stays over its limit. -/

namespace Sys2Proof.Proofs

open Sys2Proof.Machine Sys2Proof.Safety Sys2Proof.Laws

/-- The step of a quantity's thresholds (R7). -/
def thresholdStep (q : Quantity) : Nat :=
  if q = .temperature then tempStep else humStep

/-- What a raised threshold may reach (R171 to R174). -/
def upperLimit (s : State) : Quantity → Bound → Nat
  | .temperature, .high => tempHighCap
  | .temperature, .low => s.tempHigh.toNat
  | .humidity, .high => humCap
  | .humidity, .low => min s.humHigh.toNat humCap

/-- What a lowered threshold may reach (R175 to R178). -/
def lowerLimit (s : State) : Quantity → Bound → Nat
  | .temperature, .high => s.tempLow.toNat
  | .temperature, .low => tempFloor
  | .humidity, .high => max s.humLow.toNat humFloor
  | .humidity, .low => humFloor

/-- The state with one threshold replaced. -/
def setThreshold (s : State) (q : Quantity) (b : Bound) (v : Byte) : State :=
  match q, b with
  | .temperature, .high => { s with tempHigh := v }
  | .temperature, .low => { s with tempLow := v }
  | .humidity, .high => { s with humHigh := v }
  | .humidity, .low => { s with humLow := v }

@[simp] theorem threshold_setThreshold_same (s : State) (q : Quantity) (b : Bound) (v : Byte) :
    (setThreshold s q b v).threshold q b = v := by
  cases q <;> cases b <;> rfl

theorem threshold_setThreshold_of_ne (s : State) {q r : Quantity} {b c : Bound} (v : Byte) (h : (r, c) ≠ (q, b)) :
    (setThreshold s q b v).threshold r c = s.threshold r c := by
  cases q <;> cases b <;> cases r <;> cases c <;> simp [setThreshold, State.threshold] at h ⊢

theorem upperLimit_lt (s : State) (q : Quantity) (b : Bound) : upperLimit s q b < 2 ^ 8 := by
  have htemp := s.tempHigh.isLt
  cases q <;> cases b <;> simp only [upperLimit, tempHighCap, humCap] <;> omega

/-- A tap of UP selects the high bound (R170, R181). -/
theorem upEvent_tap (s : State) (h : s.held .up = false) : upEvent s = { s with selB := .high } := by
  simp [upEvent, h, evtSelhi]

/-- A tap of DOWN selects the low bound (R179, R182). -/
theorem downEvent_tap (s : State) (h : s.held .down = false) : downEvent s = { s with selB := .low } := by
  simp [downEvent, h, evtSello]

/-- UP held raises the selected threshold while it stays under its limit (R170 to R174). -/
theorem upEvent_held (s : State) (h : s.held .up = true) :
    upEvent s =
      if (s.threshold s.selQ s.selB).toNat + thresholdStep s.selQ ≤ upperLimit s s.selQ s.selB then
        setThreshold s s.selQ s.selB
          (BitVec.ofNat 8 ((s.threshold s.selQ s.selB).toNat + thresholdStep s.selQ))
      else s := by
  unfold upEvent
  rw [h]
  cases s.selQ <;> cases s.selB
  · rfl
  · rfl
  · exact if_congr (by simp [State.threshold, thresholdStep, upperLimit]) rfl rfl
  · rfl

/-- DOWN held lowers the selected threshold while it stays over its limit (R175 to R179). -/
theorem downEvent_held (s : State) (h : s.held .down = true) :
    downEvent s =
      if lowerLimit s s.selQ s.selB + thresholdStep s.selQ ≤ (s.threshold s.selQ s.selB).toNat then
        setThreshold s s.selQ s.selB
          (BitVec.ofNat 8 ((s.threshold s.selQ s.selB).toNat - thresholdStep s.selQ))
      else s := by
  unfold downEvent
  rw [h]
  cases s.selQ <;> cases s.selB
  · rfl
  · rfl
  · rfl
  · exact if_congr (by simp [State.threshold, thresholdStep, lowerLimit, humStep, humFloor]; omega) rfl rfl

/-- The selected threshold, and no other, grew by one step and stayed under its limit. -/
structure RaisesSelected (s u : State) : Prop where
  others : ∀ q b, (q, b) ≠ (s.selQ, s.selB) → u.threshold q b = s.threshold q b
  selected : (u.threshold s.selQ s.selB).toNat = (s.threshold s.selQ s.selB).toNat + thresholdStep s.selQ
  limit : (u.threshold s.selQ s.selB).toNat ≤ upperLimit s s.selQ s.selB

/-- The selected threshold, and no other, shrank by one step and stayed over its limit. -/
structure LowersSelected (s u : State) : Prop where
  others : ∀ q b, (q, b) ≠ (s.selQ, s.selB) → u.threshold q b = s.threshold q b
  selected : (u.threshold s.selQ s.selB).toNat + thresholdStep s.selQ = (s.threshold s.selQ s.selB).toNat
  limit : lowerLimit s s.selQ s.selB ≤ (u.threshold s.selQ s.selB).toNat

/-- What an UP event does to the thresholds. -/
theorem upEvent_thresholds (s : State) :
    (∀ q b, (upEvent s).threshold q b = s.threshold q b) ∨ (s.held .up = true ∧ RaisesSelected s (upEvent s)) := by
  cases h : s.held .up with
  | false => exact .inl fun q b => by rw [upEvent_tap s h]; rfl
  | true =>
    rw [upEvent_held s h]
    split
    case isFalse => exact .inl fun _ _ => rfl
    case isTrue hlimit =>
      have hlt := upperLimit_lt s s.selQ s.selB
      have hval : (BitVec.ofNat 8 ((s.threshold s.selQ s.selB).toNat + thresholdStep s.selQ)).toNat =
          (s.threshold s.selQ s.selB).toNat + thresholdStep s.selQ := by
        rw [BitVec.toNat_ofNat, Nat.mod_eq_of_lt (by omega)]
      refine .inr ⟨rfl, fun q b hne => threshold_setThreshold_of_ne s _ hne, ?_, ?_⟩ <;>
        rw [threshold_setThreshold_same, hval]
      exact hlimit

/-- What a DOWN event does to the thresholds. -/
theorem downEvent_thresholds (s : State) :
    (∀ q b, (downEvent s).threshold q b = s.threshold q b) ∨ (s.held .down = true ∧ LowersSelected s (downEvent s)) := by
  cases h : s.held .down with
  | false => exact .inl fun q b => by rw [downEvent_tap s h]; rfl
  | true =>
    rw [downEvent_held s h]
    split
    case isFalse => exact .inl fun _ _ => rfl
    case isTrue hlimit =>
      have hlt := (s.threshold s.selQ s.selB).isLt
      have hval : (BitVec.ofNat 8 ((s.threshold s.selQ s.selB).toNat - thresholdStep s.selQ)).toNat =
          (s.threshold s.selQ s.selB).toNat - thresholdStep s.selQ := by
        rw [BitVec.toNat_ofNat, Nat.mod_eq_of_lt (by omega)]
      refine .inr ⟨rfl, fun q b hne => threshold_setThreshold_of_ne s _ hne, ?_, ?_⟩ <;>
        rw [threshold_setThreshold_same, hval] <;> omega

/-- `u` differs from `s` in the thresholds and the selected bound at most. -/
def OnlySettingsDiffer (s u : State) : Prop :=
  ∃ (th tl hh hl : Byte) (b : Bound),
    u = { s with tempHigh := th, tempLow := tl, humHigh := hh, humLow := hl, selB := b }

theorem setThreshold_onlySettingsDiffer (s : State) (q : Quantity) (b : Bound) (v : Byte) :
    OnlySettingsDiffer s (setThreshold s q b v) := by
  cases q <;> cases b <;> exact ⟨_, _, _, _, _, rfl⟩

/-- An UP event writes settings only. -/
theorem upEvent_onlySettingsDiffer (s : State) : OnlySettingsDiffer s (upEvent s) := by
  cases h : s.held .up with
  | false => rw [upEvent_tap s h]; exact ⟨_, _, _, _, _, rfl⟩
  | true =>
    rw [upEvent_held s h]
    split
    · exact setThreshold_onlySettingsDiffer s _ _ _
    · exact ⟨_, _, _, _, _, rfl⟩

/-- A DOWN event writes settings only. -/
theorem downEvent_onlySettingsDiffer (s : State) : OnlySettingsDiffer s (downEvent s) := by
  cases h : s.held .down with
  | false => rw [downEvent_tap s h]; exact ⟨_, _, _, _, _, rfl⟩
  | true =>
    rw [downEvent_held s h]
    split
    · exact setThreshold_onlySettingsDiffer s _ _ _
    · exact ⟨_, _, _, _, _, rfl⟩

/-- The bounds are about the four thresholds alone. -/
theorem thresholdsInBounds_congr {s u : State} (h : ∀ q b, u.threshold q b = s.threshold q b)
    (hs : ThresholdsInBounds s) : ThresholdsInBounds u := by
  have hth : u.tempHigh = s.tempHigh := h .temperature .high
  have htl : u.tempLow = s.tempLow := h .temperature .low
  have hhh : u.humHigh = s.humHigh := h .humidity .high
  have hhl : u.humLow = s.humLow := h .humidity .low
  unfold ThresholdsInBounds
  rw [hth, htl, hhh, hhl]
  exact hs

/-- Raising a threshold under its limit keeps the bounds. -/
theorem RaisesSelected.inBounds {s u : State} (h : RaisesSelected s u) (hs : ThresholdsInBounds s) :
    ThresholdsInBounds u := by
  obtain ⟨hothers, hsel, hlimit⟩ := h
  have hth := fun hne => congrArg BitVec.toNat (hothers .temperature .high hne)
  have htl := fun hne => congrArg BitVec.toNat (hothers .temperature .low hne)
  have hhh := fun hne => congrArg BitVec.toNat (hothers .humidity .high hne)
  have hhl := fun hne => congrArg BitVec.toNat (hothers .humidity .low hne)
  clear hothers
  unfold ThresholdsInBounds at hs ⊢
  cases hq : s.selQ <;> cases hb : s.selB <;>
    simp [hq, hb, State.threshold, thresholdStep, upperLimit, tempHighCap, humCap, tempStep, humStep] at * <;> omega

/-- Lowering a threshold over its limit keeps the bounds. -/
theorem LowersSelected.inBounds {s u : State} (h : LowersSelected s u) (hs : ThresholdsInBounds s) :
    ThresholdsInBounds u := by
  obtain ⟨hothers, hsel, hlimit⟩ := h
  have hth := fun hne => congrArg BitVec.toNat (hothers .temperature .high hne)
  have htl := fun hne => congrArg BitVec.toNat (hothers .temperature .low hne)
  have hhh := fun hne => congrArg BitVec.toNat (hothers .humidity .high hne)
  have hhl := fun hne => congrArg BitVec.toNat (hothers .humidity .low hne)
  clear hothers
  unfold ThresholdsInBounds at hs ⊢
  cases hq : s.selQ <;> cases hb : s.selB <;>
    simp [hq, hb, State.threshold, thresholdStep, lowerLimit, tempFloor, humFloor, tempStep, humStep] at * <;> omega

end Sys2Proof.Proofs
end

