-- ==== Sys2Proof/Proofs/Moves.lean ====
section
/-! Everything one tick can do, said once: the moves of the decoder (41_sensor_protocol_decoder.md), the moves of the sequencer
(43_threshold_config_fsm.md to 45_main_sequencer.md), and the registers each leaves alone. -/

namespace Sys2Proof.Proofs

open Sys2Proof.Machine Sys2Proof.Safety Sys2Proof.Laws

/-! ### The decoder's registers -/

/-- `f` reads none of the registers the decoder writes. -/
def IgnoresDecoder {α : Type} (f : State → α) : Prop :=
  ∀ (s : State) (hum temp : Byte) (valid : Bool) (frame : Frame) (bitcnt : BitVec 6) (spd : SpdState) (tmr : Ticks)
    (err : PollError),
    f { s with hum := hum, temp := temp, valid := valid, frame := frame, bitcnt := bitcnt, spd := spd, tmr := tmr,
               err := err } = f s

/-- The decoder's rule keeps what its registers do not hold. -/
theorem decoderTick_keeps {α : Type} {f : State → α} (hf : IgnoresDecoder f) (s : State) : f s.decoderTick = f s := by
  obtain ⟨_, _, _, _, _, _, _, _, hd⟩ := decoderTick_frame s
  rw [hd]
  exact hf ..

/-- So does joining the decoder's rule into the sequencer's result. -/
theorem withDecoder_keeps {α : Type} {f : State → α} (hf : IgnoresDecoder f) (s u : State) :
    f (s.withDecoder u) = f u := by
  unfold State.withDecoder
  split
  · rfl
  · obtain ⟨_, _, _, _, hj⟩ := joinRules_frame s s.decoderTick u
    rw [hj]
    exact hf ..

theorem ignoresDecoder_threshold (q : Quantity) (b : Bound) : IgnoresDecoder (State.threshold · q b) := by
  intro s _ _ _ _ _ _ _ _
  cases q <;> cases b <;> rfl

theorem ignoresDecoder_alarm (q : Quantity) : IgnoresDecoder (State.alarm · q) := by
  intro s _ _ _ _ _ _ _ _
  cases q <;> rfl

@[simp] theorem decoderTick_seq (s : State) : s.decoderTick.seq = s.seq :=
  decoderTick_keeps (f := State.seq) (fun _ _ _ _ _ _ _ _ _ => rfl) s

@[simp] theorem decoderTick_curQ (s : State) : s.decoderTick.curQ = s.curQ :=
  decoderTick_keeps (f := State.curQ) (fun _ _ _ _ _ _ _ _ _ => rfl) s

@[simp] theorem decoderTick_oorCnt (s : State) : s.decoderTick.oorCnt = s.oorCnt :=
  decoderTick_keeps (f := State.oorCnt) (fun _ _ _ _ _ _ _ _ _ => rfl) s

@[simp] theorem decoderTick_sampIdx (s : State) : s.decoderTick.sampIdx = s.sampIdx :=
  decoderTick_keeps (f := State.sampIdx) (fun _ _ _ _ _ _ _ _ _ => rfl) s

@[simp] theorem decoderTick_ledAlarm (s : State) : s.decoderTick.ledAlarm = s.ledAlarm :=
  decoderTick_keeps (f := State.ledAlarm) (fun _ _ _ _ _ _ _ _ _ => rfl) s

@[simp] theorem decoderTick_ledNormal (s : State) : s.decoderTick.ledNormal = s.ledNormal :=
  decoderTick_keeps (f := State.ledNormal) (fun _ _ _ _ _ _ _ _ _ => rfl) s

@[simp] theorem decoderTick_threshold (s : State) (q : Quantity) (b : Bound) :
    s.decoderTick.threshold q b = s.threshold q b :=
  decoderTick_keeps (ignoresDecoder_threshold q b) s

@[simp] theorem decoderTick_alarm (s : State) (q : Quantity) : s.decoderTick.alarm q = s.alarm q :=
  decoderTick_keeps (ignoresDecoder_alarm q) s

/-! ### The decoder's moves -/

/-- The state a decoder state is left to when its poll goes on (R112 to R119). -/
def nextSpd (s : State) : SpdState :=
  match s.spd with
  | .startLow => .startHigh
  | .startHigh => .ackL1
  | .ackL1 => .ackH
  | .ackH => .ackL2
  | .ackL2 => .bitRise
  | .bitRise => .bitDelay
  | .bitDelay => .bitFall
  | .bitFall => if s.bitcnt.toNat = frameBits then .check else .bitRise
  | .idle | .check => .idle

/-- The decoder states that go on to the next without writing the frame. -/
def passingSpdStates : List SpdState :=
  [.startLow, .startHigh, .ackL1, .ackH, .ackL2, .bitRise, .bitFall]

/-- Everything the decoder's rule can do at one tick, and whether the poll ends there. -/
inductive DecoderMove (s : State) : State → Prop
  | rests (hspd : s.spd = .idle) (hends : s.pollEnds = false) : DecoderMove s s
  | counts (hidle : s.spd ≠ .idle) (htmr : s.tmr.toNat ≠ spdTicks s - 1) (hends : s.pollEnds = false) :
      DecoderMove s s.countTick
  | passes (hspd : s.spd ∈ passingSpdStates) (hends : s.pollEnds = false) : DecoderMove s (s.goSpd (nextSpd s))
  | samples (hspd : s.spd = .bitDelay) (hends : s.pollEnds = false) : DecoderMove s (s.sample.goSpd .bitFall)
  | timesOut (hspd : awaitedLevel s.spd ≠ none) (htmr : s.tmr = s.waitLast) (hends : s.pollEnds = true) :
      DecoderMove s (s.endPoll .noResponse)
  | checksGood (hspd : s.spd = .check) (hgood : frameGood s.frame = true) (hends : s.pollEnds = true) :
      DecoderMove s { s.endPoll .none with hum := frameByte s.frame 0, temp := frameByte s.frame 2, valid := true }
  | checksBad (hspd : s.spd = .check) (hgood : frameGood s.frame = false) (hends : s.pollEnds = true) :
      DecoderMove s (s.endPoll .checksumMismatch)

/-- No poll ends in a state that is neither CHECK nor a wait (R217). -/
theorem pollEnds_of_not_awaiting (s : State) (hwait : awaitedLevel s.spd = none) (hcheck : s.spd ≠ .check) :
    s.pollEnds = false := by
  simp [State.pollEnds, State.timesOut, hwait, hcheck]

/-- A poll ends in a wait at its last tick on the wrong level (R12, R217). -/
theorem pollEnds_of_awaiting (s : State) {level : Bool} (hwait : awaitedLevel s.spd = some level) :
    s.pollEnds = (s.pins.dqIn != level && s.tmr == s.waitLast) := by
  have hcheck : s.spd ≠ .check := by
    intro h
    rw [h] at hwait
    cases hwait
  simp [State.pollEnds, State.timesOut, hwait, hcheck]

/-- A wait passes on, times out or counts on. -/
theorem decoderMove_await (s : State) {level : Bool} {p : SpdState} (hwait : awaitedLevel s.spd = some level)
    (hspd : s.spd ∈ passingSpdStates) (hticks : spdTicks s = s.waitTimeoutTicks) (hnext : nextSpd s = p) :
    DecoderMove s (s.await level (s.goSpd p)) := by
  subst hnext
  have hends := pollEnds_of_awaiting s hwait
  obtain ⟨hlevel, h⟩ | ⟨hlevel, htmr, h⟩ | ⟨hlevel, htmr, h⟩ := await_cases s (s.goSpd (nextSpd s)) level <;> rw [h]
  · exact .passes hspd (by simp [hends, hlevel])
  · exact .timesOut (by simp [hwait]) htmr (by simp [hends, hlevel, htmr])
  · refine .counts ?_ ?_ (by simp [hends, htmr])
    · intro hidle
      rw [hidle] at hwait
      cases hwait
    · rw [hticks]
      exact mt (tmr_eq_waitLast s).mpr htmr

/-- A dwell of the decoder leaves at its last tick or counts on. -/
theorem decoderMove_dwell (s : State) {leave : State} {n : Nat}
    (hspd : s.spd = .startLow ∨ s.spd = .startHigh ∨ s.spd = .bitDelay) (hticks : spdTicks s = n)
    (hleave : s.pollEnds = false → DecoderMove s leave) : DecoderMove s (s.dwell n leave) := by
  have hends : s.pollEnds = false := by
    obtain hs | hs | hs := hspd <;> exact pollEnds_of_not_awaiting s (by rw [hs]; rfl) (by simp [hs])
  obtain ⟨-, h⟩ | ⟨htmr, h⟩ := dwell_cases s leave n <;> rw [h]
  · exact hleave hends
  · exact .counts (by obtain hs | hs | hs := hspd <;> simp [hs]) (hticks ▸ htmr) hends

/-- The decoder's rule makes one of its moves. -/
theorem decoderTick_move (s : State) : DecoderMove s s.decoderTick := by
  have passes {p : SpdState} (hspd : s.spd ∈ passingSpdStates) (hnext : nextSpd s = p) (hends : s.pollEnds = false) :
      DecoderMove s (s.goSpd p) := hnext ▸ .passes hspd hends
  unfold State.decoderTick
  cases hs : s.spd with
  | idle => exact .rests hs (pollEnds_of_not_awaiting s (by rw [hs]; rfl) (by simp [hs]))
  | startLow | startHigh =>
    exact decoderMove_dwell s (by simp [hs]) (by simp [spdTicks, hs, tStartLow, tStartHigh])
      (passes (by simp [hs, passingSpdStates]) (by simp [nextSpd, hs]))
  | ackL1 | ackH | ackL2 | bitRise | bitFall =>
    exact decoderMove_await s (by rw [hs]; rfl) (by simp [hs, passingSpdStates]) (by simp [spdTicks, hs])
      (by simp [nextSpd, hs])
  | bitDelay => exact decoderMove_dwell s (by simp [hs]) (by simp [spdTicks, hs, tSample]) (.samples hs)
  | check =>
    have hends : s.pollEnds = true := by simp [State.pollEnds, hs]
    show DecoderMove s (tickCheck s)
    unfold tickCheck
    split
    case isTrue hgood => exact .checksGood hs hgood hends
    case isFalse hbad => exact .checksBad hs (by simpa using hbad) hends

/-! ### The sequencer's moves -/

/-- What a move does to the thresholds (R170 to R179): nothing, or one step of the selected one for a held button. -/
inductive ThresholdMove (s u : State) : Prop
  | keeps (h : ∀ q b, u.threshold q b = s.threshold q b)
  | raises (hseq : s.seq = .cSetUp) (htmr : s.tmr.toNat = 999999) (hheld : s.held .up = true)
      (h : RaisesSelected s u)
  | lowers (hseq : s.seq = .cSetDown) (htmr : s.tmr.toNat = 999999) (hheld : s.held .down = true)
      (h : LowersSelected s u)

/-- What a move does to the thresholds is about the thresholds alone. -/
theorem ThresholdMove.congr {s u v : State} (h : ThresholdMove s u) (hv : ∀ q b, v.threshold q b = u.threshold q b) :
    ThresholdMove s v := by
  cases h with
  | keeps h => exact .keeps fun q b => (hv q b).trans (h q b)
  | raises hseq htmr hheld h =>
    refine .raises hseq htmr hheld ⟨fun q b hne => (hv q b).trans (h.others q b hne), ?_, ?_⟩ <;> rw [hv]
    exacts [h.selected, h.limit]
  | lowers hseq htmr hheld h =>
    refine .lowers hseq htmr hheld ⟨fun q b hne => (hv q b).trans (h.others q b hne), ?_, ?_⟩ <;> rw [hv]
    exacts [h.selected, h.limit]

/-- The transitions of the sequencer that start no poll and evaluate nothing: the main loop's and the configuration's (R161
to R169, R183, R219). -/
def plainTransitions : List (SeqState × SeqState) :=
  [(.sShow, .sEntry), (.sEntry, .sEntrySettle), (.sEntry, .eGate), (.sEntrySettle, .cDraw), (.cDraw, .cDelay),
    (.cDelay, .cChkMode), (.cChkMode, .cSetMode), (.cChkMode, .cChkUp), (.cSetMode, .cChkUp), (.cChkUp, .cSetUp),
    (.cChkUp, .cChkDown), (.cSetUp, .cChkDown), (.cChkDown, .cSetDown), (.cChkDown, .cChkOk), (.cSetDown, .cChkOk),
    (.cChkOk, .cSetOk), (.cChkOk, .cDraw), (.cSetOk, .eGate), (.cSetOk, .cDraw)]

/-- The timed states that end in a poll, with the polling state that runs it (R196, R200, R216). -/
def pollTransitions : List (SeqState × SeqState) :=
  [(.sGap, .sPoll), (.aConfGap, .aConfPoll), (.aSustGap, .aSustPoll)]

/-- The polling states with their fixed successors (R194, R198, R218). -/
def pollReturns : List (SeqState × SeqState) :=
  [(.sPoll, .sShow), (.aConfPoll, .aConfCount), (.aSustPoll, .aSustChk)]

/-- Everything the operation of a sequencer state can do at one tick. -/
inductive SeqMove (s : State) : State → Prop
  | counts (hseq : s.seq ∈ timedSeqStates) (htmr : s.tmr.toNat ≠ seqTicks s - 1) : SeqMove s s.countTick
  | passes {q : SeqState} {p : Buttons} {selQ : Quantity} {selB : Bound} {th tl hh hl : Byte}
      (hq : (s.seq, q) ∈ plainTransitions)
      (hthresholds : ThresholdMove s { s with tempHigh := th, tempLow := tl, humHigh := hh, humLow := hl }) :
      SeqMove s { s with pend := p, selQ := selQ, selB := selB, tempHigh := th, tempLow := tl, humHigh := hh,
                         humLow := hl, seq := q, tmr := 0 }
  | startsPoll {q : SeqState} (hq : (s.seq, q) ∈ pollTransitions) : SeqMove s (s.startPoll q)
  | polls (hseq : isPolling s.seq = true) (hends : s.pollEnds = false) : SeqMove s s.decoderTick
  | returns {q : SeqState} (hq : (s.seq, q) ∈ pollReturns) (hends : s.pollEnds = true) :
      SeqMove s (s.decoderTick.goSeq q)
  | gateOpens (hseq : s.seq = .eGate) (hvalid : s.valid = true) (hoor : s.oor s.curQ = true) :
      SeqMove s (State.startPoll { s.setAlarm s.curQ .confirming with oorCnt := 0, sampIdx := 0 } .aConfPoll)
  | gateStays (hseq : s.seq = .eGate) : SeqMove s s.nextQuantity
  | judges {q : SeqState} {n : BitVec 2} (hseq : s.seq = .aConfCount)
      (hq : q = if s.sampIdx.toNat = 2 then .aConfDecide else .aConfGap) (hn : n = s.oorCnt ∨ n = nextCount s.oorCnt) :
      SeqMove s { s.goSeq q with oorCnt := n, sampIdx := nextCount s.sampIdx }
  | confirms (hseq : s.seq = .aConfDecide) (hcnt : s.oorCnt.toNat = 3) :
      SeqMove s (State.startPoll { s.setAlarm s.curQ .sustained with ledNormal := false } .aSustPoll)
  | dismisses (hseq : s.seq = .aConfDecide) (hcnt : s.oorCnt.toNat ≠ 3) :
      SeqMove s (s.setAlarm s.curQ .normal).nextQuantity
  | sustains (hseq : s.seq = .aSustChk) (hoor : s.oor s.curQ = true) :
      SeqMove s { s.goSeq .aSustGap with ledAlarm := !s.ledAlarm }
  | recovers (hseq : s.seq = .aSustChk) (hoor : s.oor s.curQ = false) :
      SeqMove s (State.nextQuantity { s.setAlarm s.curQ .normal with ledAlarm := false, ledNormal := true })

/-- A transition that leaves the thresholds alone. -/
theorem SeqMove.passes_keeping {s : State} {q : SeqState} {p : Buttons} {selQ : Quantity} {selB : Bound}
    (hq : (s.seq, q) ∈ plainTransitions) :
    SeqMove s { s with pend := p, selQ := selQ, selB := selB, seq := q, tmr := 0 } :=
  .passes hq (.keeps fun _ _ => rfl)

/-- A transition after a change of settings. -/
theorem SeqMove.passes_settings {s v : State} {q : SeqState} (hq : (s.seq, q) ∈ plainTransitions)
    (hv : OnlySettingsDiffer s v) (hthresholds : ThresholdMove s v) : SeqMove s (v.goSeq q) := by
  obtain ⟨th, tl, hh, hl, b, rfl⟩ := hv
  exact .passes hq (hthresholds.congr fun _ _ => rfl)

/-- A timed state counts on or leaves. -/
theorem seqMove_dwell {s leave : State} {n : Nat} (hseq : s.seq ∈ timedSeqStates) (hticks : seqTicks s = n)
    (hleave : s.tmr.toNat = n - 1 → SeqMove s leave) : SeqMove s (s.dwell n leave) := by
  obtain ⟨hlast, h⟩ | ⟨htmr, h⟩ := dwell_cases s leave n <;> rw [h]
  · exact hleave hlast
  · exact .counts hseq (hticks ▸ htmr)

/-- A polling state goes on with its poll or returns from it. -/
theorem seqMove_pollReturn {s : State} {q : SeqState} (hq : (s.seq, q) ∈ pollReturns) :
    SeqMove s (s.pollReturn s.decoderTick q) := by
  obtain ⟨hends, h⟩ | ⟨hends, h⟩ := pollReturn_cases s s.decoderTick q <;> rw [h]
  · exact .returns hq hends
  · have hpolling : ∀ r ∈ pollReturns, isPolling r.1 = true := by decide
    exact .polls (hpolling _ hq) hends

/-- A test of a flag passes on either way. -/
theorem seqMove_testFlag {s : State} {b : Button} {found notFound : SeqState}
    (hfound : (s.seq, found) ∈ plainTransitions) (hnot : (s.seq, notFound) ∈ plainTransitions) :
    SeqMove s (s.testFlag b found notFound) := by
  obtain ⟨-, h⟩ | ⟨-, h⟩ := testFlag_cases s b found notFound <;> rw [h]
  · exact .passes_keeping hfound
  · exact .passes_keeping hnot

/-- What UP does to the thresholds at the end of its settle delay. -/
theorem thresholdMove_upEvent {s : State} (hseq : s.seq = .cSetUp) (htmr : s.tmr.toNat = 999999) :
    ThresholdMove s (upEvent s) := by
  obtain h | ⟨hheld, h⟩ := upEvent_thresholds s
  · exact .keeps h
  · exact .raises hseq htmr hheld h

/-- What DOWN does to the thresholds at the end of its settle delay. -/
theorem thresholdMove_downEvent {s : State} (hseq : s.seq = .cSetDown) (htmr : s.tmr.toNat = 999999) :
    ThresholdMove s (downEvent s) := by
  obtain h | ⟨hheld, h⟩ := downEvent_thresholds s
  · exact .keeps h
  · exact .lowers hseq htmr hheld h

/-- The operation of every sequencer state makes one of the sequencer's moves. -/
theorem exec_seq_move (s : State) : ∃ u, exec s.seq.instr s = .next u ∧ SeqMove s u := by
  cases hs : s.seq with
  | sGap | aConfGap | aSustGap =>
    exact ⟨_, rfl, seqMove_dwell (by simp [hs, timedSeqStates]) (by simp [seqTicks, hs, tConfGap, tSustPeriod])
      fun _ => .startsPoll (by simp [hs, pollTransitions])⟩
  | sPoll | aConfPoll | aSustPoll => exact ⟨_, rfl, seqMove_pollReturn (by simp [hs, pollReturns])⟩
  | sShow | cDraw => exact ⟨_, rfl, .passes_keeping (by simp [hs, plainTransitions])⟩
  | sEntry =>
    refine ⟨_, rfl, ?_⟩
    split <;> exact .passes_keeping (by simp [hs, plainTransitions])
  | sEntrySettle | cDelay | cSetMode =>
    exact ⟨_, rfl, seqMove_dwell (by simp [hs, timedSeqStates]) (by simp [seqTicks, hs, tSettle, tCfgRefresh])
      fun _ => .passes_keeping (by simp [hs, plainTransitions])⟩
  | cChkMode | cChkUp | cChkDown | cChkOk =>
    exact ⟨_, rfl, seqMove_testFlag (by simp [hs, plainTransitions]) (by simp [hs, plainTransitions])⟩
  | cSetUp =>
    exact ⟨_, rfl, seqMove_dwell (by simp [hs, timedSeqStates]) (by simp [seqTicks, hs, tSettle]) fun htmr =>
      .passes_settings (by simp [hs, plainTransitions]) (upEvent_onlySettingsDiffer s) (thresholdMove_upEvent hs htmr)⟩
  | cSetDown =>
    exact ⟨_, rfl, seqMove_dwell (by simp [hs, timedSeqStates]) (by simp [seqTicks, hs, tSettle]) fun htmr =>
      .passes_settings (by simp [hs, plainTransitions]) (downEvent_onlySettingsDiffer s)
        (thresholdMove_downEvent hs htmr)⟩
  | cSetOk =>
    refine ⟨_, rfl, seqMove_dwell (by simp [hs, timedSeqStates]) (by simp [seqTicks, hs, tSettle]) fun _ => ?_⟩
    rw [okEvent_eq_goSeq]
    exact .passes_keeping (by split <;> simp [hs, plainTransitions])
  | eGate =>
    refine ⟨_, rfl, ?_⟩
    split
    case isTrue hopen =>
      obtain ⟨hvalid, hoor⟩ := Bool.and_eq_true_iff.mp hopen
      exact .gateOpens hs hvalid hoor
    case isFalse => exact .gateStays hs
  | aConfCount =>
    refine ⟨_, rfl, .judges hs rfl ?_⟩
    split
    · exact .inr rfl
    · exact .inl rfl
  | aConfDecide =>
    refine ⟨_, rfl, ?_⟩
    split
    case isTrue hcnt => exact .confirms hs hcnt
    case isFalse hcnt => exact .dismisses hs hcnt
  | aSustChk =>
    refine ⟨_, rfl, ?_⟩
    split
    case isTrue hoor => exact .sustains hs hoor
    case isFalse hoor => exact .recovers hs (by simpa using hoor)

/-- A tick with `rst` low is a move of the sequencer, with the decoder's rule joined where it runs outside a poll, NOTIFY and
time. -/
theorem step_move {s t : State} (hrst : s.pins.rst = false) (h : step s = .next t) :
    ∃ u, SeqMove s u ∧ t = s.passTime (s.notify (s.withDecoder u)) := by
  obtain ⟨hhigh, -⟩ | ⟨-, u, hexec, rfl⟩ := step_cases s t h
  · rw [hrst] at hhigh
    cases hhigh
  · obtain ⟨v, hexec', hmove⟩ := exec_seq_move s
    obtain rfl : v = u := Host.Outcome.next.inj (hexec'.symm.trans hexec)
    exact ⟨v, hmove, rfl⟩

end Sys2Proof.Proofs
end

