-- ==== Sys2Proof/Proofs/RegisterRules.lean ====
section
/-! Which moves write which registers (10_state.md R21, R22, R30 to R34): the thresholds, the alarms, and the reading with `err`,
each rule read off the moves of one tick. -/

namespace Sys2Proof.Proofs

open Sys2Proof.Machine Sys2Proof.Safety Sys2Proof.Laws

/-! ### Thresholds -/

@[simp] theorem threshold_setAlarm (s : State) (r : Quantity) (a : AlarmState) (q : Quantity) (b : Bound) :
    (s.setAlarm r a).threshold q b = s.threshold q b := by
  cases r <;> rfl

@[simp] theorem threshold_nextQuantity (s : State) (q : Quantity) (b : Bound) :
    s.nextQuantity.threshold q b = s.threshold q b := by
  obtain ⟨-, h⟩ | ⟨-, h⟩ := nextQuantity_cases s <;> rw [h] <;> rfl

/-- Every move of the sequencer leaves the thresholds or makes one step for a held button. -/
theorem SeqMove.thresholdMove {s u : State} (h : SeqMove s u) : ThresholdMove s u := by
  cases h with
  | counts | startsPoll | judges | sustains => exact .keeps fun _ _ => rfl
  | passes _ hthresholds => exact hthresholds.congr fun _ _ => rfl
  | polls | returns => exact .keeps (decoderTick_threshold s)
  | gateOpens | confirms => exact .keeps (threshold_setAlarm s _ _)
  | gateStays => exact .keeps (threshold_nextQuantity s)
  | dismisses | recovers =>
    exact .keeps fun q b => (threshold_nextQuantity _ q b).trans (threshold_setAlarm s _ _ q b)

/-- The same of a whole tick with `rst` low, in states no run reaches too. -/
theorem step_thresholdMove {s t : State} (hrst : s.pins.rst = false) (h : step s = .next t) : ThresholdMove s t := by
  obtain ⟨u, hmove, rfl⟩ := step_move hrst h
  exact hmove.thresholdMove.congr fun q b => withDecoder_keeps (ignoresDecoder_threshold q b) s u

/-- Bounds are kept by what a move does to the thresholds. -/
theorem ThresholdMove.inBounds {s u : State} (h : ThresholdMove s u) (hs : ThresholdsInBounds s) :
    ThresholdsInBounds u := by
  cases h with
  | keeps hkeep => exact thresholdsInBounds_congr hkeep hs
  | raises _ _ _ hraise => exact hraise.inBounds hs
  | lowers _ _ _ hlower => exact hlower.inBounds hs

/-- Reset gives thresholds in bounds (R43). -/
theorem thresholdsInBounds_resetTick (s : State) : ThresholdsInBounds (resetTick s) := by
  simp [ThresholdsInBounds, resetTick]

/-- Settles O45: a reset gives bounds that are met, and every other tick moves a threshold by a step within its limit. -/
theorem everyTickKeepsTheThresholdsInBounds : Obligations.EveryTickKeepsTheThresholdsInBounds := by
  intro s t hs h
  cases hrst : s.pins.rst with
  | true =>
    obtain rfl := Host.Outcome.next.inj ((step_of_rst_high s hrst).symm.trans h)
    exact thresholdsInBounds_resetTick s
  | false => exact (step_thresholdMove hrst h).inBounds hs

/-- Settles O50: of the threshold's moves only a held button's is a change, and it is to the selected threshold. -/
theorem thresholdsChangeOnlyByAHeldButton : Obligations.ThresholdsChangeOnlyByAHeldButton := by
  intro s t q b hrst h hne
  cases step_thresholdMove hrst h with
  | keeps hkeep => exact absurd (hkeep q b) hne
  | raises hseq htmr hheld hraise =>
    obtain ⟨rfl, rfl⟩ := Prod.mk.inj (not_imp_comm.mp (hraise.others q b) hne)
    exact ⟨htmr, rfl, rfl, .inl ⟨hseq, hheld, hraise.selected⟩⟩
  | lowers hseq htmr hheld hlower =>
    obtain ⟨rfl, rfl⟩ := Prod.mk.inj (not_imp_comm.mp (hlower.others q b) hne)
    exact ⟨htmr, rfl, rfl, .inr ⟨hseq, hheld, hlower.selected⟩⟩

/-! ### Alarms -/

@[simp] theorem alarm_nextQuantity (s : State) (q : Quantity) : s.nextQuantity.alarm q = s.alarm q := by
  obtain ⟨-, h⟩ | ⟨-, h⟩ := nextQuantity_cases s <;> rw [h] <;> rfl

/-- What a move does to the alarms: nothing, or the alarm of the quantity under evaluation takes a value (R193, R197, R199). -/
inductive AlarmMove (s u : State) : Prop
  | keeps (h : ∀ q, u.alarm q = s.alarm q)
  | confirming (h : ∀ q, u.alarm q = (s.setAlarm s.curQ .confirming).alarm q) (hseq : s.seq = .eGate)
      (hvalid : s.valid = true) (hoor : s.oor s.curQ = true)
  | sustained (h : ∀ q, u.alarm q = (s.setAlarm s.curQ .sustained).alarm q) (hseq : s.seq = .aConfDecide)
      (hcnt : s.oorCnt.toNat = 3)
  | normal (h : ∀ q, u.alarm q = (s.setAlarm s.curQ .normal).alarm q)
      (hwhere : (s.seq = .aConfDecide ∧ s.oorCnt.toNat ≠ 3) ∨ (s.seq = .aSustChk ∧ s.oor s.curQ = false))

/-- Every move of the sequencer does one of these. -/
theorem SeqMove.alarmMove {s u : State} (h : SeqMove s u) : AlarmMove s u := by
  cases h with
  | counts | passes | startsPoll | judges | sustains => exact .keeps fun _ => rfl
  | polls | returns => exact .keeps (decoderTick_alarm s)
  | gateStays => exact .keeps (alarm_nextQuantity s)
  | gateOpens hseq hvalid hoor => exact .confirming (fun _ => rfl) hseq hvalid hoor
  | confirms hseq hcnt => exact .sustained (fun _ => rfl) hseq hcnt
  | dismisses hseq hcnt => exact .normal (alarm_nextQuantity _) (.inl ⟨hseq, hcnt⟩)
  | recovers hseq hoor => exact .normal (alarm_nextQuantity _) (.inr ⟨hseq, hoor⟩)

/-- Settles O52: an alarm that changes was written, and every write is to the quantity under evaluation. -/
theorem alarmsChangeOnlyWhereTheEvaluatorSays : Obligations.AlarmsChangeOnlyWhereTheEvaluatorSays := by
  intro s t q hrst h hne
  obtain ⟨u, hmove, rfl⟩ := step_move hrst h
  have halarm : (s.passTime (s.notify (s.withDecoder u))).alarm q = u.alarm q :=
    withDecoder_keeps (ignoresDecoder_alarm q) s u
  rw [halarm] at hne ⊢
  have written {a : AlarmState} (ha : u.alarm q = (s.setAlarm s.curQ a).alarm q) : q = s.curQ :=
    not_imp_comm.mp (State.alarm_setAlarm_of_ne s s.curQ q a) (ha ▸ hne)
  cases hmove.alarmMove with
  | keeps hkeep => exact absurd (hkeep q) hne
  | confirming ha hseq hvalid hoor =>
    obtain rfl := written (ha q)
    exact ⟨rfl, .inr (.inl ⟨by simp [ha], hseq, hvalid, hoor⟩)⟩
  | sustained ha hseq hcnt =>
    obtain rfl := written (ha q)
    exact ⟨rfl, .inl ⟨by simp [ha], hseq, hcnt⟩⟩
  | normal ha hwhere =>
    obtain rfl := written (ha q)
    have hnormal : u.alarm s.curQ = .normal := by simp [ha]
    obtain ⟨hseq, hcnt⟩ | ⟨hseq, hoor⟩ := hwhere
    · exact ⟨rfl, .inr (.inr (.inl ⟨hnormal, hseq, hcnt⟩))⟩
    · exact ⟨rfl, .inr (.inr (.inr ⟨hnormal, hseq, hoor⟩))⟩

/-! ### The decoder's registers -/

/-- `u` has the reading and the outcome of the last poll that `s` has. -/
structure SameReading (s u : State) : Prop where
  hum : u.hum = s.hum
  temp : u.temp = s.temp
  valid : u.valid = s.valid
  err : u.err = s.err

/-- What a move of the sequencer does to the registers the decoder writes. -/
inductive PollEffect (s u : State) : Prop
  | counts (hseq : s.seq ∈ timedSeqStates) (htmr : s.tmr.toNat ≠ seqTicks s - 1) (hu : u = s.countTick)
  | polls (hseq : isPolling s.seq = true) (hends : s.pollEnds = false) (hu : u = s.decoderTick)
  | returns {q : SeqState} (hq : (s.seq, q) ∈ pollReturns) (hends : s.pollEnds = true) (hu : u = s.decoderTick.goSeq q)
  | starts (hseq : isPolling s.seq = false) (hseq' : isPolling u.seq = true) (hspd : u.spd = .startLow) (htmr : u.tmr = 0)
      (hframe : u.frame = 0) (hbitcnt : u.bitcnt = 0) (hreading : SameReading s u)
  | rests (hseq : isPolling s.seq = false) (hseq' : isPolling u.seq = false) (hspd : u.spd = s.spd) (htmr : u.tmr = 0)
      (hframe : u.frame = s.frame) (hbitcnt : u.bitcnt = s.bitcnt) (hreading : SameReading s u)

/-- A timed state is no polling state. -/
theorem isPolling_of_timed : ∀ q ∈ timedSeqStates, isPolling q = false := by decide

/-- A plain transition is between states that are no polling states. -/
theorem isPolling_of_plain : ∀ r ∈ plainTransitions, isPolling r.1 = false ∧ isPolling r.2 = false := by decide

/-- A poll is started from a state that is no polling state. -/
theorem isPolling_of_pollTransition : ∀ r ∈ pollTransitions, isPolling r.1 = false ∧ isPolling r.2 = true := by decide

/-- A poll returns to a state that is no polling state. -/
theorem isPolling_of_pollReturn : ∀ r ∈ pollReturns, isPolling r.1 = true ∧ isPolling r.2 = false := by decide

theorem isPolling_nextQuantity (s : State) : isPolling s.nextQuantity.seq = false := by
  obtain ⟨-, h⟩ | ⟨-, h⟩ := nextQuantity_cases s <;> rw [h] <;> rfl

/-- Every move of the sequencer has one of these effects. -/
theorem SeqMove.pollEffect {s u : State} (h : SeqMove s u) : PollEffect s u := by
  cases h with
  | counts hseq htmr => exact .counts hseq htmr rfl
  | polls hseq hends => exact .polls hseq hends rfl
  | returns hq hends => exact .returns hq hends rfl
  | passes hq =>
    obtain ⟨hseq, hseq'⟩ := isPolling_of_plain _ hq
    exact .rests hseq hseq' rfl rfl rfl rfl ⟨rfl, rfl, rfl, rfl⟩
  | startsPoll hq =>
    obtain ⟨hseq, hseq'⟩ := isPolling_of_pollTransition _ hq
    exact .starts hseq hseq' rfl rfl rfl rfl ⟨rfl, rfl, rfl, rfl⟩
  | gateOpens hseq | confirms hseq =>
    refine .starts (by rw [hseq]; rfl) rfl rfl rfl rfl rfl ⟨?_, ?_, ?_, ?_⟩ <;> simp
  | gateStays hseq | dismisses hseq | recovers hseq =>
    refine .rests (by rw [hseq]; rfl) (isPolling_nextQuantity _) ?_ ?_ ?_ ?_ ⟨?_, ?_, ?_, ?_⟩ <;> simp
  | judges hseq hq =>
    exact .rests (by rw [hseq]; rfl) (by rw [hq]; simp only [State.goSeq_seq]; split <;> rfl) rfl rfl rfl rfl
      ⟨rfl, rfl, rfl, rfl⟩
  | sustains hseq => exact .rests (by rw [hseq]; rfl) rfl rfl rfl rfl rfl ⟨rfl, rfl, rfl, rfl⟩

/-- With the decoder idle its rule does nothing (R120). -/
theorem decoderTick_of_idle {s : State} (h : s.spd = .idle) : s.decoderTick = s := by
  unfold State.decoderTick
  rw [h]
  rfl

/-- A move outside a poll keeps the reading. -/
theorem PollEffect.sameReading {s u : State} (h : PollEffect s u) (hseq : isPolling s.seq = false) : SameReading s u := by
  cases h with
  | counts _ _ hu => rw [hu]; exact ⟨rfl, rfl, rfl, rfl⟩
  | polls hseq' => rw [hseq] at hseq'; cases hseq'
  | returns hq => rw [(isPolling_of_pollReturn _ hq).1] at hseq; cases hseq
  | starts _ _ _ _ _ _ hreading | rests _ _ _ _ _ _ hreading => exact hreading

/-- A move in a poll leaves the reading to the decoder's rule. -/
theorem PollEffect.sameReading_decoderTick {s u : State} (h : PollEffect s u) (hseq : isPolling s.seq = true) :
    SameReading s.decoderTick u := by
  cases h with
  | polls _ _ hu | returns _ _ hu => rw [hu]; exact ⟨rfl, rfl, rfl, rfl⟩
  | counts htimed => rw [isPolling_of_timed _ htimed] at hseq; cases hseq
  | starts hseq' | rests hseq' => rw [hseq'] at hseq; cases hseq

/-- Whatever the sequencer does, the reading and `err` after a tick are those the decoder's rule leaves. -/
theorem withDecoder_sameReading {s u : State} (h : PollEffect s u) : SameReading s.decoderTick (s.withDecoder u) := by
  unfold State.withDecoder
  cases hseq : isPolling s.seq with
  | true =>
    rw [if_pos (.inr rfl)]
    exact h.sameReading_decoderTick hseq
  | false =>
    split
    case isTrue hidle =>
      obtain hidle | habsurd := hidle
      · rw [decoderTick_of_idle hidle]
        exact h.sameReading hseq
      · cases habsurd
    case isFalse => exact ⟨rfl, rfl, rfl, rfl⟩

/-- At CHECK a good frame is the reading (R124). -/
theorem decoderTick_checkGood {s : State} (hspd : s.spd = .check) (hgood : frameGood s.frame = true) :
    s.decoderTick = tickCheckOk (frameByte s.frame 0) (frameByte s.frame 2) s := by
  simp [State.decoderTick, hspd, tickCheck, hgood]

/-- At CHECK a bad frame is an error (R125). -/
theorem decoderTick_checkBad {s : State} (hspd : s.spd = .check) (hgood : frameGood s.frame = false) :
    s.decoderTick = s.endPoll .checksumMismatch := by
  simp [State.decoderTick, hspd, tickCheck, hgood, tickCheckBad]

/-- The waits are the five states R126 names. -/
theorem awaiting_cases {p : SpdState} (h : awaitedLevel p ≠ none) :
    p = .ackL1 ∨ p = .ackH ∨ p = .ackL2 ∨ p = .bitRise ∨ p = .bitFall := by
  revert h
  cases p <;> simp [awaitedLevel]

/-- Outside CHECK the decoder keeps the reading, and `err` but for a timeout. -/
theorem DecoderMove.reading_of_not_check {s d : State} (h : DecoderMove s d) (hspd : s.spd ≠ .check) :
    d.hum = s.hum ∧ d.temp = s.temp ∧ d.valid = s.valid ∧
      (d.err = s.err ∨ (d.err = .noResponse ∧ s.tmr = s.waitLast ∧ awaitedLevel s.spd ≠ none)) := by
  cases h with
  | rests | counts | passes | samples => exact ⟨rfl, rfl, rfl, .inl rfl⟩
  | timesOut hwait htmr => exact ⟨rfl, rfl, rfl, .inr ⟨rfl, htmr, hwait⟩⟩
  | checksGood hcheck | checksBad hcheck => exact absurd hcheck hspd

/-- Settles O49: the reading and `err` after a tick are the decoder's, whose moves write them at CHECK and at a timeout. -/
theorem readingChangesOnlyAtAGoodCheck : Obligations.ReadingChangesOnlyAtAGoodCheck := by
  intro s t hrst h
  obtain ⟨u, hmove, rfl⟩ := step_move hrst h
  obtain ⟨hhum, htemp, hvalid, herr⟩ := withDecoder_sameReading hmove.pollEffect
  simp only [State.passTime_hum, State.passTime_temp, State.passTime_valid, State.passTime_err, State.notify_hum,
    State.notify_temp, State.notify_valid, State.notify_err, hhum, htemp, hvalid, herr]
  refine ⟨fun hspd hgood => ?_, fun hspd hbad => ?_, fun hspd => ?_⟩
  · rw [decoderTick_checkGood hspd hgood]
    exact ⟨rfl, rfl, rfl, rfl⟩
  · rw [decoderTick_checkBad hspd hbad]
    exact ⟨rfl, rfl, rfl, rfl⟩
  · obtain ⟨hhum, htemp, hvalid, herr⟩ := (decoderTick_move s).reading_of_not_check hspd
    exact ⟨hhum, htemp, hvalid, herr.imp_right fun ⟨herr, htmr, hwait⟩ => ⟨herr, htmr, awaiting_cases hwait⟩⟩

end Sys2Proof.Proofs
end

