-- ==== Sys2Proof/Proofs/Invariant.lean ====
section
/-! The invariant of the states a run reaches (10_state.md R23 to R32; 43_threshold_config_fsm.md R180; 60_exceptions.md R253):
reset meets it, and every move of the decoder and of the sequencer keeps each of its parts. -/

namespace Sys2Proof.Proofs

open Sys2Proof.Machine Sys2Proof.Safety Sys2Proof.Laws

/-! ### Reset -/

/-- Reset's registers meet the invariant, whatever the parameters and the trace (R43). -/
theorem inv_resetRegisters (s : State) : Inv s.resetRegisters where
  poll := by simp [PollConsistent, isPolling]
  thresholds := thresholdsInBounds_resetTick s
  alarms := ⟨rfl, rfl, fun _ _ _ => rfl⟩
  indicators := ⟨rfl, fun _ => rfl⟩
  valid := by rintro (h | h) <;> cases h
  counts := by simp [CountsInRange]
  timer := by simp [TimerInRange, seqTicks, State.loopGapTicks]
  frame := by simp [FrameInRange]

/-- A reset tick gives the invariant, whatever the state (R270). -/
theorem inv_resetTick (s : State) : Inv (resetTick s) :=
  have h := inv_resetRegisters s
  ⟨h.poll, h.thresholds, h.alarms, h.indicators, h.valid, h.counts, h.timer, h.frame⟩

/-- Settles O43: `State.reset` is what reset makes of it. -/
theorem resetMeetsTheInvariant : Obligations.ResetMeetsTheInvariant :=
  inv_resetRegisters State.reset

/-! ### The poll: the decoder's state, the timer and the frame -/

/-- With the decoder consistent, it is idle outside a poll. -/
theorem spd_idle_of_pollConsistent {s : State} (h : PollConsistent s) (hseq : isPolling s.seq = false) :
    s.spd = .idle := by
  by_contra hspd
  rw [h.mp hspd] at hseq
  cases hseq

theorem pollConsistent_of_idle {s : State} (hspd : s.spd = .idle) (hseq : isPolling s.seq = false) :
    PollConsistent s := by
  simp [PollConsistent, hspd, hseq]

theorem pollConsistent_of_running {s : State} (hspd : s.spd ≠ .idle) (hseq : isPolling s.seq = true) :
    PollConsistent s := by
  simp [PollConsistent, hspd, hseq]

/-- The decoder's rule leaves the decoder idle iff it was, or the poll ends (R217). -/
theorem DecoderMove.spd_idle_iff {s d : State} (h : DecoderMove s d) :
    d.spd = .idle ↔ s.spd = .idle ∨ s.pollEnds = true := by
  cases h with
  | rests hspd => simp [hspd]
  | counts hidle _ hends => simp [hidle, hends]
  | passes hspd hends =>
    have hidle : s.spd ≠ .idle ∧ nextSpd s ≠ .idle := by
      unfold nextSpd
      revert hspd
      cases s.spd <;> simp [passingSpdStates]
      split <;> simp
    simp [hidle, hends]
  | samples hspd hends => simp [hspd, hends]
  | timesOut _ _ hends | checksGood _ _ hends | checksBad _ _ hends => simp [hends]

/-- Polling states and decoder stay consistent. -/
theorem PollEffect.pollConsistent {s u : State} (h : PollEffect s u) (hs : PollConsistent s) : PollConsistent u := by
  have hidle := (decoderTick_move s).spd_idle_iff
  cases h with
  | counts _ _ hu => rw [hu]; exact hs
  | polls hseq hends hu =>
    have hspd := hs.mpr hseq
    rw [hu]
    exact pollConsistent_of_running (by simp [hidle, hspd, hends]) (by rw [decoderTick_seq, hseq])
  | returns hq hends hu =>
    rw [hu]
    exact pollConsistent_of_idle (hidle.mpr (.inr hends)) (isPolling_of_pollReturn _ hq).2
  | starts _ hseq' hspd => exact pollConsistent_of_running (by simp [hspd]) hseq'
  | rests hseq hseq' hspd => exact pollConsistent_of_idle (hspd.trans (spd_idle_of_pollConsistent hs hseq)) hseq'

/-- How long a decoder state lasts depends on its name and the wait timeout alone. -/
theorem spdTicks_congr {s t : State} (hspd : t.spd = s.spd) (hwait : t.waitLast = s.waitLast) :
    spdTicks t = spdTicks s := by
  unfold spdTicks State.waitTimeoutTicks
  rw [hspd, hwait]

/-- Every decoder state lasts at least a tick, and none longer than the timer's 20 bits can count (R8, R27). -/
theorem spdTicks_bounds (s : State) : 1 ≤ spdTicks s ∧ spdTicks s ≤ 2 ^ 20 := by
  have hwait := s.waitLast.isLt
  unfold spdTicks State.waitTimeoutTicks
  cases s.spd <;> simp only <;> omega

/-- The timer is in range in the first tick of every state (R12). -/
theorem timerInRange_of_zero {s : State} (h : s.tmr = 0) : TimerInRange s := by
  have hseq := (seqTicks_bounds s).1
  have hspd := (spdTicks_bounds s).1
  unfold TimerInRange
  rw [h]
  split
  · exact hseq
  · exact hspd

/-- Counting on before the last of `n` ticks stays within them. -/
theorem nextTmr_lt {v : Ticks} {n : Nat} (hmax : n ≤ 2 ^ 20) (hlt : v.toNat < n) (hlast : v.toNat ≠ n - 1) :
    (nextTmr v).toNat < n := by
  rw [nextTmr_toNat v (by omega)]
  omega

/-- The decoder's rule keeps the timer in range. -/
theorem DecoderMove.timerInRange {s d : State} (h : DecoderMove s d) (hs : TimerInRange s) : TimerInRange d := by
  cases h with
  | rests => exact hs
  | counts hidle htmr =>
    unfold TimerInRange at hs ⊢
    rw [if_neg hidle] at hs
    rw [State.countTick_spd, if_neg hidle, spdTicks_congr (State.countTick_spd s) rfl]
    exact nextTmr_lt (spdTicks_bounds s).2 hs htmr
  | passes | samples | timesOut | checksGood | checksBad => exact timerInRange_of_zero rfl

/-- The timer stays in range. -/
theorem PollEffect.timerInRange {s u : State} (h : PollEffect s u) (hpoll : PollConsistent s) (hs : TimerInRange s) :
    TimerInRange u := by
  cases h with
  | counts hseq htmr hu =>
    have hidle : s.spd = .idle := spd_idle_of_pollConsistent hpoll (isPolling_of_timed _ hseq)
    unfold TimerInRange at hs ⊢
    rw [if_pos hidle] at hs
    rw [hu, State.countTick_spd, if_pos hidle, seqTicks_congr (State.countTick_seq s) rfl]
    exact nextTmr_lt (seqTicks_bounds s).2 hs htmr
  | polls _ _ hu => rw [hu]; exact (decoderTick_move s).timerInRange hs
  | returns _ _ hu => rw [hu]; exact timerInRange_of_zero rfl
  | starts _ _ _ htmr | rests _ _ _ htmr => exact timerInRange_of_zero htmr

/-- A SAMPLE keeps the frame within the bits counted (R122). -/
theorem sample_toNat {s : State} (hframe : s.frame.toNat < 2 ^ s.bitcnt.toNat) (hbitcnt : s.bitcnt.toNat < 40) :
    s.sample.bitcnt.toNat = s.bitcnt.toNat + 1 ∧ s.sample.frame.toNat < 2 ^ (s.bitcnt.toNat + 1) := by
  have hpow : 2 ^ s.bitcnt.toNat ≤ 2 ^ 39 := Nat.pow_le_pow_right (by decide) (by omega)
  have hbit : s.pins.dqIn.toNat ≤ 1 := Bool.toNat_le _
  rw [State.sample_bitcnt, State.sample_frame, shiftIn_toNat _ _ (by omega), Nat.pow_succ]
  exact ⟨nextBitcnt_toNat _ (by omega), by omega⟩

/-- The decoder's rule keeps the bit counter and the frame in the range of its state. -/
theorem DecoderMove.frameInRange {s d : State} (h : DecoderMove s d) (hs : FrameInRange s) : FrameInRange d := by
  obtain ⟨hframe, hbitcnt, hphase⟩ := hs
  cases h with
  | rests | counts => exact ⟨hframe, hbitcnt, hphase⟩
  | passes hspd =>
    refine ⟨hframe, hbitcnt, ?_⟩
    revert hphase hspd
    rw [State.goSpd_spd, State.goSpd_bitcnt]
    unfold nextSpd
    cases s.spd <;> simp [passingSpdStates, frameBits]
    case ackL2 => omega
    case bitFall =>
      by_cases hlast : s.bitcnt.toNat = 40
      · simp [hlast]
      · simp only [hlast, if_false]
        omega
  | samples hspd =>
    rw [hspd] at hphase
    obtain ⟨hcount, hshift⟩ := sample_toNat hframe hphase
    refine ⟨?_, ?_, ?_⟩ <;> simp only [State.goSpd_spd, State.goSpd_frame, State.goSpd_bitcnt, hcount]
    · exact hshift
    · omega
    · omega
  | timesOut | checksGood | checksBad => exact ⟨hframe, hbitcnt, trivial⟩

/-- The bit counter and the frame stay in range. -/
theorem PollEffect.frameInRange {s u : State} (h : PollEffect s u) (hs : FrameInRange s) : FrameInRange u := by
  cases h with
  | counts _ _ hu => rw [hu]; exact hs
  | polls _ _ hu | returns _ _ hu => rw [hu]; exact (decoderTick_move s).frameInRange hs
  | starts _ _ hspd _ hframe hbitcnt => simp [FrameInRange, hspd, hframe, hbitcnt]
  | rests _ _ hspd _ hframe hbitcnt =>
    unfold FrameInRange
    rw [hspd, hframe, hbitcnt]
    exact hs

/-! ### The evaluation: alarms, indicators and the reading it runs on -/

/-- The parts of the invariant that speak of the evaluator's phase. -/
structure EvaluationConsistent (s : State) : Prop where
  alarms : AlarmsFollowPhase s
  indicators : IndicatorsFollowPhase s
  valid : EvaluatesValidReading s

/-- The sequencer states `p` and `q` belong to the same phase of the evaluator (R252). -/
def SamePhase (p q : SeqState) : Prop :=
  isConfirming q = isConfirming p ∧ isSustained q = isSustained p ∧ (p = .eGate → q = .eGate)

theorem SamePhase.refl (p : SeqState) : SamePhase p p :=
  ⟨rfl, rfl, id⟩

theorem samePhase_of_plain : ∀ r ∈ plainTransitions, SamePhase r.1 r.2 := by
  unfold SamePhase
  decide

theorem samePhase_of_pollTransition : ∀ r ∈ pollTransitions, SamePhase r.1 r.2 := by
  unfold SamePhase
  decide

theorem samePhase_of_pollReturn : ∀ r ∈ pollReturns, SamePhase r.1 r.2 := by
  unfold SamePhase
  decide

/-- A move within a phase that leaves the evaluator's registers alone, but for the alarm indicator's toggling in the
sustained phase, keeps the evaluation consistent. -/
theorem EvaluationConsistent.of_samePhase {s u : State} (hs : EvaluationConsistent s) (hseq : SamePhase s.seq u.seq)
    (hcur : u.curQ = s.curQ) (halarm : ∀ q, u.alarm q = s.alarm q) (hvalid : s.valid = true → u.valid = true)
    (hnormal : u.ledNormal = s.ledNormal) (hled : isSustained s.seq = false → u.ledAlarm = s.ledAlarm) :
    EvaluationConsistent u := by
  obtain ⟨hconf, hsust, hgate⟩ := hseq
  obtain ⟨⟨hcurrent, hother, htemperature⟩, ⟨hlit, hdark⟩, hmade⟩ := hs
  refine ⟨⟨?_, ?_, ?_⟩, ⟨?_, ?_⟩, ?_⟩
  · rw [hcur, halarm, hconf, hsust, hcurrent]
  · rw [hcur, halarm, hother]
  · rw [hcur, hconf, hsust]
    exact fun hc hs hne => htemperature hc hs (mt hgate hne)
  · rw [hnormal, hsust, hlit]
  · rw [hsust]
    exact fun hs => (hled hs).trans (hdark hs)
  · unfold EvaluatesValidReading
    rw [hconf, hsust]
    exact fun hphase => hvalid (hmade hphase)

/-- A quantity is the given one or the other. -/
theorem eq_or_eq_otherQuantity (q r : Quantity) : r = q ∨ r = otherQuantity q := by
  cases q <;> cases r <;> simp [otherQuantity]

theorem otherQuantity_ne (q : Quantity) : otherQuantity q ≠ q := by
  cases q <;> simp [otherQuantity]

/-- Opening a phase gives the quantity under evaluation its alarm and leaves the other Normal (R193, R197). -/
theorem alarmsFollowPhase_of_setAlarm {s u : State} {a : AlarmState} (hs : AlarmsFollowPhase s)
    (hcur : u.curQ = s.curQ) (halarm : ∀ q, u.alarm q = (s.setAlarm s.curQ a).alarm q)
    (hphase : (isConfirming u.seq = true ∧ a = .confirming) ∨
      (isConfirming u.seq = false ∧ isSustained u.seq = true ∧ a = .sustained)) : AlarmsFollowPhase u := by
  obtain ⟨-, hother, -⟩ := hs
  refine ⟨?_, ?_, ?_⟩ <;> rw [hcur]
  · rw [halarm, State.alarm_setAlarm]
    obtain ⟨hc, rfl⟩ | ⟨hc, hs, rfl⟩ := hphase <;> simp [*]
  · rw [halarm, State.alarm_setAlarm_of_ne _ _ _ _ (otherQuantity_ne _), hother]
  · intro hc hs
    obtain ⟨hc', -⟩ | ⟨-, hs', -⟩ := hphase <;> simp_all

/-- With the alarm of the quantity under evaluation back at Normal, both are. -/
theorem alarm_setAlarm_normal {s : State} (hs : AlarmsFollowPhase s) (q : Quantity) :
    (s.setAlarm s.curQ .normal).alarm q = .normal := by
  obtain ⟨-, hother, -⟩ := hs
  obtain rfl | rfl := eq_or_eq_otherQuantity s.curQ q
  · exact State.alarm_setAlarm s _ _
  · rw [State.alarm_setAlarm_of_ne _ _ _ _ (otherQuantity_ne _), hother]

/-- At the gate neither quantity is alarmed (R193). -/
theorem alarm_normal_of_eGate {s : State} (hs : AlarmsFollowPhase s) (hseq : s.seq = .eGate) (q : Quantity) :
    s.alarm q = .normal := by
  obtain ⟨hcurrent, hother, -⟩ := hs
  rw [hseq] at hcurrent
  obtain rfl | rfl := eq_or_eq_otherQuantity s.curQ q
  · exact hcurrent
  · exact hother

/-- NEXT, with every alarm Normal and the indicators so, leaves the evaluation consistent (R192). -/
theorem evaluationConsistent_nextQuantity {s : State} (halarm : ∀ q, s.alarm q = .normal) (hnormal : s.ledNormal = true)
    (hled : s.ledAlarm = false) : EvaluationConsistent s.nextQuantity := by
  have halarm' (q : Quantity) : s.nextQuantity.alarm q = .normal := (alarm_nextQuantity s q).trans (halarm q)
  obtain ⟨-, h⟩ | ⟨-, h⟩ := nextQuantity_cases s <;> rw [h] at halarm' ⊢
  · refine ⟨⟨halarm' _, halarm' _, fun _ _ hne => absurd rfl hne⟩, ⟨hnormal, fun _ => hled⟩, ?_⟩
    rintro (h | h) <;> cases h
  · refine ⟨⟨halarm' _, halarm' _, fun _ _ _ => rfl⟩, ⟨hnormal, fun _ => hled⟩, ?_⟩
    rintro (h | h) <;> cases h

/-- A valid reading stays valid (R34). -/
theorem DecoderMove.valid {s d : State} (h : DecoderMove s d) (hs : s.valid = true) : d.valid = true := by
  cases h with
  | checksGood => rfl
  | rests | counts | passes | samples | timesOut | checksBad => exact hs

/-- The decoder's rule keeps the evaluation consistent, the return from a poll too. -/
theorem EvaluationConsistent.decoderTick {s : State} (hs : EvaluationConsistent s) {q : SeqState}
    (hq : SamePhase s.seq q) : EvaluationConsistent { s.decoderTick with seq := q } := by
  exact hs.of_samePhase hq (decoderTick_curQ s) (decoderTick_alarm s) (decoderTick_move s).valid
    (decoderTick_ledNormal s) fun _ => decoderTick_ledAlarm s

/-- Every move of the sequencer keeps the evaluation consistent. -/
theorem SeqMove.evaluationConsistent {s u : State} (h : SeqMove s u) (hs : EvaluationConsistent s) :
    EvaluationConsistent u := by
  have hlit (hseq : isSustained s.seq = false) : s.ledNormal = true := by rw [hs.indicators.1, hseq]; rfl
  have hdark (hseq : isSustained s.seq = false) : s.ledAlarm = false := hs.indicators.2 hseq
  cases h with
  | counts => exact hs.of_samePhase (.refl _) rfl (fun _ => rfl) id rfl fun _ => rfl
  | passes hq => exact hs.of_samePhase (samePhase_of_plain _ hq) rfl (fun _ => rfl) id rfl fun _ => rfl
  | startsPoll hq => exact hs.of_samePhase (samePhase_of_pollTransition _ hq) rfl (fun _ => rfl) id rfl fun _ => rfl
  | polls =>
    have hkeep := hs.decoderTick (.refl s.seq)
    rw [← decoderTick_seq] at hkeep
    exact hkeep
  | returns hq =>
    obtain ⟨halarms, hindicators, hvalid⟩ := hs.decoderTick (samePhase_of_pollReturn _ hq)
    exact ⟨halarms, hindicators, hvalid⟩
  | judges hseq hq =>
    refine hs.of_samePhase ?_ rfl (fun _ => rfl) id rfl fun _ => rfl
    rw [hseq, hq]
    simp only [State.goSeq_seq]
    split <;> exact ⟨rfl, rfl, nofun⟩
  | sustains hseq =>
    refine hs.of_samePhase ?_ rfl (fun _ => rfl) id rfl ?_ <;> rw [hseq]
    · exact ⟨rfl, rfl, nofun⟩
    · nofun
  | gateOpens hseq hvalid =>
    have hsust : isSustained s.seq = false := by rw [hseq]; rfl
    refine ⟨alarmsFollowPhase_of_setAlarm hs.alarms ?_ (fun _ => rfl) (.inl ⟨rfl, rfl⟩), ⟨?_, fun _ => ?_⟩, fun _ => ?_⟩
    · simp
    · exact (State.setAlarm_ledNormal ..).trans (hlit hsust)
    · exact (State.setAlarm_ledAlarm ..).trans (hdark hsust)
    · exact (State.setAlarm_valid ..).trans hvalid
  | confirms hseq =>
    refine ⟨alarmsFollowPhase_of_setAlarm hs.alarms ?_ (fun _ => rfl) (.inr ⟨rfl, rfl, rfl⟩), ⟨rfl, nofun⟩, fun _ => ?_⟩
    · simp
    · simpa using hs.valid (.inl (by rw [hseq]; rfl))
  | gateStays hseq =>
    have hsust : isSustained s.seq = false := by rw [hseq]; rfl
    exact evaluationConsistent_nextQuantity (alarm_normal_of_eGate hs.alarms hseq) (hlit hsust) (hdark hsust)
  | dismisses hseq =>
    have hsust : isSustained s.seq = false := by rw [hseq]; rfl
    exact evaluationConsistent_nextQuantity (alarm_setAlarm_normal hs.alarms) (by simpa using hlit hsust)
      (by simpa using hdark hsust)
  | recovers => exact evaluationConsistent_nextQuantity (alarm_setAlarm_normal hs.alarms) rfl rfl

/-! ### The confirmation counts -/

/-- Only the confirmation phase bounds the counts beyond their order (R195). -/
theorem countsInRange_of_not_confirming {s : State} (hseq : isConfirming s.seq = false)
    (hcount : s.oorCnt.toNat ≤ s.sampIdx.toNat) : CountsInRange s := by
  refine ⟨hcount, ?_, ?_⟩
  · rintro (h | h | h) <;> rw [h] at hseq <;> cases hseq
  · intro h
    rw [h] at hseq
    cases hseq

theorem isConfirming_nextQuantity (s : State) : isConfirming s.nextQuantity.seq = false := by
  obtain ⟨-, h⟩ | ⟨-, h⟩ := nextQuantity_cases s <;> rw [h] <;> rfl

/-- The states between two samples of a confirmation phase, which has counted two at most (R194 to R196). -/
def samplingStates : List SeqState :=
  [.aConfPoll, .aConfCount, .aConfGap]

/-- The transition from `p` to `q` goes neither into the decision nor into the sampling from outside it. -/
def KeepsCounting (p q : SeqState) : Prop :=
  q ≠ .aConfDecide ∧ (q ∈ samplingStates → p ∈ samplingStates)

theorem counting_of_plain : ∀ r ∈ plainTransitions, KeepsCounting r.1 r.2 := by
  unfold KeepsCounting
  decide

theorem counting_of_pollTransition : ∀ r ∈ pollTransitions, KeepsCounting r.1 r.2 := by
  unfold KeepsCounting
  decide

theorem counting_of_pollReturn : ∀ r ∈ pollReturns, KeepsCounting r.1 r.2 := by
  unfold KeepsCounting
  decide

/-- Such a transition keeps counts that it does not write in range. -/
theorem countsInRange_of_transition {s u : State} (hs : CountsInRange s)
    (hseq : KeepsCounting s.seq u.seq) (hoor : u.oorCnt = s.oorCnt) (hsamp : u.sampIdx = s.sampIdx) : CountsInRange u := by
  obtain ⟨hdecide, hsampling⟩ := hseq
  simp only [samplingStates, List.mem_cons, List.not_mem_nil, or_false] at hsampling
  obtain ⟨horder, htwo, -⟩ := hs
  unfold CountsInRange
  rw [hoor, hsamp]
  exact ⟨horder, fun h => htwo (hsampling h), fun h => absurd h hdecide⟩

/-- A sample judged keeps the counts in order, and the third leads to the decision (R195). -/
theorem countsInRange_of_judged {s : State} {q : SeqState} {n : BitVec 2} (htwo : s.sampIdx.toNat ≤ 2)
    (horder : s.oorCnt.toNat ≤ s.sampIdx.toNat) (hq : q = if s.sampIdx.toNat = 2 then .aConfDecide else .aConfGap)
    (hn : n = s.oorCnt ∨ n = nextCount s.oorCnt) :
    CountsInRange { s.goSeq q with oorCnt := n, sampIdx := nextCount s.sampIdx } := by
  have hsamp : (nextCount s.sampIdx).toNat = s.sampIdx.toNat + 1 := nextCount_toNat _ (by omega)
  have hoor : n.toNat ≤ s.sampIdx.toNat + 1 := by
    obtain rfl | rfl := hn
    · omega
    · rw [nextCount_toNat _ (by omega)]
      omega
  unfold CountsInRange
  simp only [State.goSeq_seq, hsamp, hq]
  refine ⟨hoor, ?_, ?_⟩ <;> split <;> simp <;> omega

/-- Every move of the sequencer keeps the counts in range. -/
theorem SeqMove.countsInRange {s u : State} (h : SeqMove s u) (hs : CountsInRange s) : CountsInRange u := by
  have horder := hs.1
  cases h with
  | counts => exact hs
  | passes hq => exact countsInRange_of_transition hs (counting_of_plain _ hq) rfl rfl
  | startsPoll hq => exact countsInRange_of_transition hs (counting_of_pollTransition _ hq) rfl rfl
  | polls =>
    have hkeep := decoderTick_keeps (f := CountsInRange) (fun _ _ _ _ _ _ _ _ _ => rfl) s
    exact hkeep.mpr hs
  | returns hq =>
    exact countsInRange_of_transition hs (counting_of_pollReturn _ hq) (decoderTick_oorCnt s) (decoderTick_sampIdx s)
  | gateOpens => exact ⟨Nat.le_refl 0, fun _ => Nat.zero_le 2, nofun⟩
  | gateStays | dismisses | recovers =>
    exact countsInRange_of_not_confirming (isConfirming_nextQuantity _) (by simpa using horder)
  | confirms => exact countsInRange_of_not_confirming rfl (by simpa using horder)
  | sustains => exact countsInRange_of_not_confirming rfl horder
  | judges hseq hq hn => exact countsInRange_of_judged (hs.2.1 (by simp [hseq])) horder hq hn

/-! ### The invariant -/

/-- NOTIFY and the passing of time touch nothing the invariant speaks of. -/
theorem inv_passTime_notify {s u : State} (h : Inv u) : Inv (s.passTime (s.notify u)) :=
  ⟨h.poll, h.thresholds, h.alarms, h.indicators, h.valid, h.counts, h.timer, h.frame⟩

/-- Every move of the sequencer keeps the invariant. -/
theorem SeqMove.inv {s u : State} (h : SeqMove s u) (hs : Inv s) : Inv u := by
  obtain ⟨halarms, hindicators, hvalid⟩ := h.evaluationConsistent ⟨hs.alarms, hs.indicators, hs.valid⟩
  exact ⟨h.pollEffect.pollConsistent hs.poll, h.thresholdMove.inBounds hs.thresholds, halarms, hindicators, hvalid,
    h.countsInRange hs.counts, h.pollEffect.timerInRange hs.poll hs.timer, h.pollEffect.frameInRange hs.frame⟩

/-- Settles O44: a reset gives the invariant, and any other tick is a move of the sequencer, which keeps it. -/
theorem everyTickKeepsTheInvariant : Obligations.EveryTickKeepsTheInvariant := by
  intro s t hs h
  cases hrst : s.pins.rst with
  | true =>
    obtain rfl := Host.Outcome.next.inj ((step_of_rst_high s hrst).symm.trans h)
    exact inv_resetTick s
  | false =>
    obtain ⟨u, hmove, rfl⟩ := step_move hrst h
    rw [withDecoder_of_pollConsistent s u hs.poll]
    exact inv_passTime_notify (hmove.inv hs)

end Sys2Proof.Proofs
end

