-- ==== Sys2Proof/Proofs/SensorPin.lean ====
section
/-! Where the level of the sensor's pin matters (10_state.md R40; 93_implementation_defined.md U10): every operation commutes with
setting `dq_in`, but for the decoder's rule in a wait and at the sample tick. -/

namespace Sys2Proof.Proofs

open Sys2Proof.Machine Sys2Proof.Safety Sys2Proof.Laws

/-- The state with another level at `dq_in`. -/
def withDqIn (level : Bool) (s : State) : State :=
  { s with pins := { s.pins with dqIn := level } }

/-- A choice that does not read `dq_in`. -/
theorem ite_withDqIn {level : Bool} {c : Prop} [Decidable c] {s s' t t' : State} (hs : s' = withDqIn level s)
    (ht : t' = withDqIn level t) : (if c then s' else t') = withDqIn level (if c then s else t) := by
  rw [hs, ht, apply_ite (withDqIn level)]

/-- A dwell does not read `dq_in`. -/
theorem dwell_withDqIn {level : Bool} {s leave leave' : State} {n : Nat} (h : leave' = withDqIn level leave) :
    (withDqIn level s).dwell n leave' = withDqIn level (s.dwell n leave) :=
  ite_withDqIn h rfl

theorem setAlarm_withDqIn (level : Bool) (s : State) (q : Quantity) (a : AlarmState) :
    (withDqIn level s).setAlarm q a = withDqIn level (s.setAlarm q a) := by
  cases q <;> rfl

theorem nextQuantity_withDqIn (level : Bool) (s : State) :
    (withDqIn level s).nextQuantity = withDqIn level s.nextQuantity := by
  unfold State.nextQuantity
  cases h : s.curQ <;> simp [withDqIn, h]

theorem testFlag_withDqIn (level : Bool) (s : State) (b : Button) (found notFound : SeqState) :
    (withDqIn level s).testFlag b found notFound = withDqIn level (s.testFlag b found notFound) :=
  ite_withDqIn rfl rfl

theorem setThreshold_withDqIn (level : Bool) (s : State) (q : Quantity) (b : Bound) (v : Byte) :
    setThreshold (withDqIn level s) q b v = withDqIn level (setThreshold s q b v) := by
  cases q <;> cases b <;> rfl

/-- An UP event reads its button, not `dq_in`. -/
theorem upEvent_withDqIn (level : Bool) (s : State) : upEvent (withDqIn level s) = withDqIn level (upEvent s) := by
  cases hheld : s.held .up with
  | false => rw [upEvent_tap s hheld, upEvent_tap (withDqIn level s) hheld]; rfl
  | true =>
    rw [upEvent_held s hheld, upEvent_held (withDqIn level s) hheld]
    exact ite_withDqIn (setThreshold_withDqIn level s _ _ _) rfl

/-- Neither does a DOWN event. -/
theorem downEvent_withDqIn (level : Bool) (s : State) : downEvent (withDqIn level s) = withDqIn level (downEvent s) := by
  cases hheld : s.held .down with
  | false => rw [downEvent_tap s hheld, downEvent_tap (withDqIn level s) hheld]; rfl
  | true =>
    rw [downEvent_held s hheld, downEvent_held (withDqIn level s) hheld]
    exact ite_withDqIn (setThreshold_withDqIn level s _ _ _) rfl

/-- The decoder's rule and the end of the poll do not depend on `dq_in`. -/
structure PinIgnored (level : Bool) (s : State) : Prop where
  decoderTick : (withDqIn level s).decoderTick = withDqIn level s.decoderTick
  pollEnds : (withDqIn level s).pollEnds = s.pollEnds

/-- Outside the waits and the sample tick the decoder does not read its pin (R112, R113, R118, R120, R123). -/
theorem pinIgnored_of_not_read (level : Bool) (s : State)
    (h : s.spd = .idle ∨ s.spd = .startLow ∨ s.spd = .startHigh ∨ s.spd = .check ∨
      (s.spd = .bitDelay ∧ s.tmr.toNat ≠ 28)) : PinIgnored level s := by
  have hspd : (withDqIn level s).spd = s.spd := rfl
  refine ⟨?_, ?_⟩
  · unfold State.decoderTick
    rw [hspd]
    obtain h | h | h | h | ⟨h, htmr⟩ := h <;> rw [h]
    · rfl
    · exact dwell_withDqIn rfl
    · exact dwell_withDqIn rfl
    · exact ite_withDqIn rfl rfl
    · have hcount : tickBitDelay s = s.countTick := if_neg htmr
      have hcount' : tickBitDelay (withDqIn level s) = (withDqIn level s).countTick := if_neg htmr
      exact hcount'.trans (congrArg (withDqIn level) hcount.symm)
  · unfold State.pollEnds State.timesOut
    rw [hspd]
    obtain h | h | h | h | ⟨h, -⟩ := h <;> rw [h] <;> rfl

/-- A return from a poll does not read `dq_in` where the decoder does not. -/
theorem pollReturn_withDqIn {level : Bool} {s : State} (h : PinIgnored level s) (succ : SeqState) :
    (withDqIn level s).pollReturn (withDqIn level s).decoderTick succ =
      withDqIn level (s.pollReturn s.decoderTick succ) := by
  unfold State.pollReturn
  rw [h.decoderTick, h.pollEnds]
  exact ite_withDqIn rfl rfl

/-- The sequencer's operation commutes with setting `dq_in` where the decoder does not read it. -/
theorem exec_seq_withDqIn {level : Bool} {s : State} (h : PinIgnored level s) :
    ∃ u, exec s.seq.instr s = .next u ∧ exec s.seq.instr (withDqIn level s) = .next (withDqIn level u) := by
  cases s.seq with
  | sGap | sEntrySettle | cDelay | cSetMode | aConfGap | aSustGap =>
    exact ⟨_, rfl, congrArg Host.Outcome.next (dwell_withDqIn rfl)⟩
  | sPoll | aConfPoll | aSustPoll => exact ⟨_, rfl, congrArg Host.Outcome.next (pollReturn_withDqIn h _)⟩
  | sShow | cDraw | aConfCount => exact ⟨_, rfl, rfl⟩
  | sEntry => exact ⟨_, rfl, congrArg Host.Outcome.next (ite_withDqIn rfl rfl)⟩
  | cChkMode | cChkUp | cChkDown | cChkOk =>
    exact ⟨_, rfl, congrArg Host.Outcome.next (testFlag_withDqIn level s _ _ _)⟩
  | cSetUp =>
    exact ⟨_, rfl, congrArg Host.Outcome.next (dwell_withDqIn
      (congrArg (State.goSeq · .cChkDown) (upEvent_withDqIn level s)))⟩
  | cSetDown =>
    exact ⟨_, rfl, congrArg Host.Outcome.next (dwell_withDqIn
      (congrArg (State.goSeq · .cChkOk) (downEvent_withDqIn level s)))⟩
  | cSetOk => exact ⟨_, rfl, congrArg Host.Outcome.next (dwell_withDqIn (ite_withDqIn rfl rfl))⟩
  | eGate =>
    refine ⟨_, rfl, congrArg Host.Outcome.next (ite_withDqIn ?_ (nextQuantity_withDqIn level s))⟩
    rw [setAlarm_withDqIn]
    rfl
  | aConfDecide =>
    refine ⟨_, rfl, congrArg Host.Outcome.next (ite_withDqIn ?_ ?_)⟩ <;> rw [setAlarm_withDqIn]
    · rfl
    · exact nextQuantity_withDqIn level _
  | aSustChk =>
    refine ⟨_, rfl, congrArg Host.Outcome.next (ite_withDqIn rfl ?_)⟩
    rw [setAlarm_withDqIn]
    exact nextQuantity_withDqIn level { s.setAlarm s.curQ .normal with ledAlarm := false, ledNormal := true }

/-- Joining the decoder's rule commutes with setting `dq_in` too. -/
theorem withDecoder_withDqIn {level : Bool} {s : State} (h : PinIgnored level s) (u : State) :
    (withDqIn level s).withDecoder (withDqIn level u) = withDqIn level (s.withDecoder u) := by
  unfold State.withDecoder
  rw [h.decoderTick]
  exact ite_withDqIn rfl rfl

/-- Settles O48: the level set at the pin goes through the whole tick unread, and the next level replaces it. -/
theorem sensorPinIsIgnoredWhereItIsNotRead : Obligations.SensorPinIsIgnoredWhereItIsNotRead := by
  intro s level hspd
  have h := pinIgnored_of_not_read level s hspd
  show step (withDqIn level s) = step s
  cases hrst : s.pins.rst with
  | true =>
    rw [step_of_rst_high s hrst, step_of_rst_high (withDqIn level s) hrst]
    rfl
  | false =>
    obtain ⟨u, hu, hu'⟩ := exec_seq_withDqIn h
    have hstep := (step_of_rst_low s hrst).trans (runTick_of_exec _ _ _ hu)
    have hstep' := (step_of_rst_low (withDqIn level s) hrst).trans (runTick_of_exec _ _ _ hu')
    rw [hstep, hstep', withDecoder_withDqIn h]
    rfl

end Sys2Proof.Proofs
end

