-- ==== Sys2Proof/Proofs/StepAndPorts.lean ====
section
/-! One step as a whole (45_main_sequencer.md R222; 70_reset_and_hazards.md R270) and the output ports (10_state.md R40 to R42;
30_encoding.md R88 to R93). -/

namespace Sys2Proof.Proofs

open Sys2Proof.Machine Sys2Proof.Safety Sys2Proof.Laws

/-! ### One step -/

/-- Settles O7: the word in `seq` decodes to the operation the step runs. -/
theorem stepRunsTheDecodedOperation : Obligations.StepRunsTheDecodedOperation := by
  intro s t i hrst hdecode hexec
  rw [decode_seq] at hdecode
  obtain rfl := Except.ok.inj hdecode
  exact ⟨(step_of_rst_low s hrst).trans (runTick_of_exec _ _ _ hexec), withDecoder_of_pollConsistent s t⟩

/-! ### The output ports -/

theorem dqOe_iff (s : State) : s.dqOe = true ↔ s.spd = .startLow ∨ s.spd = .startHigh := by
  simp [State.dqOe]

theorem dqOut_iff (s : State) : s.dqOut = true ↔ s.spd = .startHigh := by
  simp [State.dqOut]

theorem cfgActive_iff (s : State) : s.cfgActive = true ↔ 5 ≤ s.seq.code.toNat ∧ s.seq.code.toNat ≤ 14 := by
  simp [State.cfgActive, isConfiguring]

theorem quantity_code_iff (q : Quantity) : q.code = true ↔ q = .humidity := by
  cases q <;> simp [Quantity.code]

theorem bound_code_iff (b : Bound) : b.code = true ↔ b = .high := by
  cases b <;> simp [Bound.code]

/-- A quantity's code as a bit of `DISP20` (R90, R92). -/
theorem ofBool_quantity_code (q : Quantity) : BitVec.ofBool q.code = if q = .humidity then 1#1 else 0#1 := by
  cases q <;> rfl

/-- A bound's code as a bit of `DISP20` (R90, R92). -/
theorem ofBool_bound_code (b : Bound) : BitVec.ofBool b.code = if b = .high then 1#1 else 0#1 := by
  cases b <;> rfl

/-- The threshold a selection names (R93). -/
theorem threshold_eq (s : State) (q : Quantity) (b : Bound) :
    s.threshold q b =
      if q = .humidity then (if b = .high then s.humHigh else s.humLow)
      else (if b = .high then s.tempHigh else s.tempLow) := by
  cases q <;> cases b <;> rfl

/-- The stored value of a quantity (R190). -/
theorem reading_eq (s : State) (q : Quantity) : s.reading q = if q = .humidity then s.hum else s.temp := by
  cases q <;> rfl

/-- After a good poll `S_SHOW` asks for the reading's screen (R92). -/
theorem display_sShow {s : State} (hseq : s.seq = .sShow) (herr : s.err = .none) :
    s.display = ⟨true, .reading, .temperature, .low, s.hum, s.temp⟩ := by
  simp [State.display, hseq, herr]

/-- `C_DRAW` asks for the selected threshold's screen (R92). -/
theorem display_cDraw {s : State} (hseq : s.seq = .cDraw) :
    s.display = ⟨true, .config, s.selQ, s.selB, s.threshold s.selQ s.selB, 0⟩ := by
  simp [State.display, hseq]

/-- `A_SUST_CHK` out of range asks for the alarm's screen (R92). -/
theorem display_aSustChk {s : State} (hseq : s.seq = .aSustChk) (hoor : s.oor s.curQ = true) :
    s.display = ⟨true, .alarm, s.curQ, .low, s.reading s.curQ, 0⟩ := by
  simp [State.display, hseq, hoor]

/-- Everywhere else no request is made (R92). -/
theorem display_idle {s : State} (hshow : ¬(s.seq = .sShow ∧ s.err = .none)) (hdraw : s.seq ≠ .cDraw)
    (hchk : ¬(s.seq = .aSustChk ∧ s.oor s.curQ = true)) : s.display = .idle := by
  unfold State.display
  split
  case h_1 hseq => exact if_neg fun herr => hshow ⟨hseq, herr⟩
  case h_2 hseq => exact absurd hseq hdraw
  case h_3 hseq => exact if_neg fun hoor => hchk ⟨hseq, hoor⟩
  case h_4 => rfl

/-- The three requests (R92). -/
theorem display_stb_iff (s : State) :
    s.display.stb = true ↔
      (s.seq = .sShow ∧ s.err = .none) ∨ s.seq = .cDraw ∨ (s.seq = .aSustChk ∧ s.oor s.curQ = true) := by
  refine ⟨fun hstb => ?_, ?_⟩
  · by_contra hnone
    rw [not_or, not_or] at hnone
    obtain ⟨hshow, hdraw, hchk⟩ := hnone
    rw [display_idle hshow hdraw hchk] at hstb
    cases hstb
  · rintro (⟨hseq, herr⟩ | hseq | ⟨hseq, hoor⟩)
    · rw [display_sShow hseq herr]
    · rw [display_cDraw hseq]
    · rw [display_aSustChk hseq hoor]

/-- Without a request every field of `DISP20` is 0 (R92). -/
theorem display_word_of_no_request {s : State} (h : s.display.stb = false) : s.display.word = 0 := by
  have hnone := mt (display_stb_iff s).mpr (ne_true_of_eq_false h)
  rw [not_or, not_or] at hnone
  obtain ⟨hshow, hdraw, hchk⟩ := hnone
  rw [display_idle hshow hdraw hchk]
  rfl

/-- A sequencer state's code is its place in the table (R88). -/
theorem seq_code_eq_idxOf (q : SeqState) :
    q.code.toNat =
      [SeqState.sGap, .sPoll, .sShow, .sEntry, .sEntrySettle, .cDraw, .cDelay, .cChkMode, .cSetMode, .cChkUp, .cSetUp,
        .cChkDown, .cSetDown, .cChkOk, .cSetOk, .eGate, .aConfPoll, .aConfCount, .aConfGap, .aConfDecide, .aSustPoll,
        .aSustChk, .aSustGap].idxOf q := by
  cases q <;> rfl

/-- A decoder state's code is its place in the table (R89). -/
theorem spd_code_eq_idxOf (p : SpdState) :
    p.code.toNat =
      [SpdState.idle, .startLow, .startHigh, .ackL1, .ackH, .ackL2, .bitRise, .bitDelay, .bitFall, .check].idxOf p := by
  cases p <;> rfl

/-- Settles O41: the step is the reset tick, which writes the table's values and moves the trace on. -/
theorem resetGivesEveryRegisterItsValue : Obligations.ResetGivesEveryRegisterItsValue := by
  intro s hrst
  have hpins : s.nextPins = levels s 1 := levels_passTime s s.resetRegisters 0
  refine ⟨resetTick s, step_of_rst_high s hrst, ?_, rfl, rfl, rfl, rfl, display_word_of_no_request rfl⟩
  rw [← hpins]
  rfl

/-- Settles O42: the pin, the wires, the codes and the render request, each by its lemma. -/
theorem outputsAreFunctionsOfTheState : Obligations.OutputsAreFunctionsOfTheState := by
  intro s
  have herr {e : PollError} (h : s.err = e) : s.outputs.errO = e.code := congrArg PollError.code h
  have halarmT {a : AlarmState} (h : s.alarmT = a) : s.outputs.alarmTO = a.code := congrArg AlarmState.code h
  have halarmH {a : AlarmState} (h : s.alarmH = a) : s.outputs.alarmHO = a.code := congrArg AlarmState.code h
  have hdisp : s.outputs.disp = s.display := rfl
  rw [hdisp]
  refine ⟨dqOe_iff s, dqOut_iff s, cfgActive_iff s, rfl, rfl, rfl, rfl, rfl, rfl, rfl, rfl, rfl, rfl,
    quantity_code_iff s.selQ, bound_code_iff s.selB, herr, herr, herr, halarmT, halarmT, halarmT, halarmH, halarmH,
    halarmH, seq_code_eq_idxOf s.seq, spd_code_eq_idxOf s.spd, display_stb_iff s, fun hseq herr => ?_, fun hseq => ?_,
    fun hseq hoor => ?_, display_word_of_no_request⟩
  · rw [display_sShow hseq herr]
    rfl
  · rw [display_cDraw hseq, ← ofBool_quantity_code, ← ofBool_bound_code, ← threshold_eq]
    rfl
  · rw [display_aSustChk hseq hoor, ← ofBool_quantity_code, ← reading_eq]
    rfl

end Sys2Proof.Proofs
end

