-- ==== Sys2Proof/Proofs/PollRuns.lean ====
section
/-! A poll as a run (41_sensor_protocol_decoder.md R114 to R122): where the decoder stands `k` ticks after the start of a run whose
poll goes on, and how it moves on through a wait and through the delay before a sample. -/

namespace Sys2Proof.Proofs

open Sys2Proof.Machine Sys2Proof.Safety Sys2Proof.Laws

/-! ### One tick of a poll -/

/-- The operation of a polling state is the decoder's rule and, where the poll ends, the return (R217). -/
theorem exec_polling {s : State} (hpoll : isPolling s.seq = true) :
    ∃ q, exec s.seq.instr s = .next (s.pollReturn s.decoderTick q) := by
  cases hs : s.seq with
  | sPoll | aConfPoll | aSustPoll => exact ⟨_, rfl⟩
  | _ => rw [hs] at hpoll; cases hpoll

/-- A tick of a poll is that operation, NOTIFY and time. -/
theorem step_polling {s : State} (hrst : s.pins.rst = false) (hpoll : isPolling s.seq = true) :
    ∃ q, step s = .next (s.passTime (s.notify (s.pollReturn s.decoderTick q))) := by
  obtain ⟨q, hexec⟩ := exec_polling hpoll
  refine ⟨q, ?_⟩
  rw [step_of_rst_low s hrst, runTick_of_exec _ _ _ hexec]
  unfold State.withDecoder
  rw [if_pos (.inr hpoll)]

/-- Where the poll goes on, the tick is the decoder's rule, NOTIFY and time. -/
theorem step_polling_goesOn {s : State} (hrst : s.pins.rst = false) (hpoll : isPolling s.seq = true)
    (hends : s.pollEnds = false) : step s = .next (s.passTime (s.notify s.decoderTick)) := by
  obtain ⟨q, hstep⟩ := step_polling hrst hpoll
  obtain ⟨hends', -⟩ | ⟨-, hreturn⟩ := pollReturn_cases s s.decoderTick q
  · rw [hends] at hends'
    cases hends'
  · rw [hstep, hreturn]

/-- The decoder's rule in the five states that await a level (R114 to R117, R119). -/
theorem decoderTick_of_awaiting {s : State} {level : Bool} (hwait : awaitedLevel s.spd = some level) :
    s.decoderTick = s.await level (s.goSpd (nextSpd s)) := by
  unfold State.decoderTick nextSpd
  cases hspd : s.spd with
  | ackL1 | ackH | ackL2 | bitRise | bitFall =>
    rw [hspd] at hwait
    cases hwait
    rfl
  | idle | startLow | startHigh | bitDelay | check => rw [hspd] at hwait; cases hwait

/-- The decoder's rule in the delay before a sample (R118). -/
theorem decoderTick_of_bitDelay {s : State} (hspd : s.spd = .bitDelay) :
    s.decoderTick = s.dwell 29 (s.sample.goSpd .bitFall) := by
  unfold State.decoderTick
  rw [hspd]
  rfl

/-- A tick of a poll at CHECK ends it: a good frame is the reading, a bad one an error that keeps it (R123 to R125). -/
theorem step_check {s : State} (hrst : s.pins.rst = false) (hpoll : isPolling s.seq = true) (hspd : s.spd = .check) :
    ∃ t, step s = .next t ∧ t.spd = .idle ∧
      (frameGood s.frame = true → t.hum = frameByte s.frame 0 ∧ t.temp = frameByte s.frame 2 ∧ t.valid = true ∧
        t.err = .none) ∧
      (frameGood s.frame = false → t.hum = s.hum ∧ t.temp = s.temp ∧ t.valid = s.valid ∧ t.err = .checksumMismatch) := by
  obtain ⟨q, hstep⟩ := step_polling hrst hpoll
  have hends : s.pollEnds = true := by simp [State.pollEnds, hspd]
  have hreturn : s.pollReturn s.decoderTick q = s.decoderTick.goSeq q := if_pos hends
  rw [hreturn] at hstep
  refine ⟨_, hstep, ?_⟩
  cases hgood : frameGood s.frame with
  | true =>
    rw [decoderTick_checkGood hspd hgood]
    exact ⟨rfl, fun _ => ⟨rfl, rfl, rfl, rfl⟩, nofun⟩
  | false =>
    rw [decoderTick_checkBad hspd hgood]
    exact ⟨rfl, nofun, fun _ => ⟨rfl, rfl, rfl, rfl⟩⟩

/-! ### Where a poll stands -/

/-- The decoder's registers in a poll, its two counts as numbers. -/
structure DecoderPhase where
  spd : SpdState
  tmr : Nat
  frame : Frame
  bitcnt : Nat

/-- `k` ticks from `s` its poll goes on with the reading untouched, and the decoder's registers in `t` are `d`. -/
structure PollAt (s : State) (k : Nat) (d : DecoderPhase) (t : State) : Prop where
  run : runTicks k s = .next t
  seq : t.seq = s.seq
  hum : t.hum = s.hum
  temp : t.temp = s.temp
  valid : t.valid = s.valid
  wait : t.waitLast = s.waitLast
  spd : t.spd = d.spd
  tmr : t.tmr.toNat = d.tmr
  frame : t.frame = d.frame
  bitcnt : t.bitcnt.toNat = d.bitcnt

/-- The poll of `s` goes on for `k` ticks, and the decoder's registers are then `d`. -/
def PollReaches (s : State) (k : Nat) (d : DecoderPhase) : Prop :=
  ∃ t, PollAt s k d t

/-- `dq_in` has one level from tick `x` up to tick `y`, ticks counted from `s`. -/
def Steady (s : State) (level : Bool) (x y : Nat) : Prop :=
  ∀ i, x ≤ i → i < y → (levels s i).dqIn = level

/-- The levels a state `k` ticks on reads are those of the trace at `k`. -/
theorem PollAt.pins {s t : State} {k : Nat} {d : DecoderPhase} (h : PollAt s k d t) : t.pins = levels s k :=
  levels_runTicks k s t h.run 0

/-- Its waits last as long as those of `s`. -/
theorem PollAt.waitTimeoutTicks {s t : State} {k : Nat} {d : DecoderPhase} (h : PollAt s k d t) :
    t.waitTimeoutTicks = s.waitTimeoutTicks := by
  unfold State.waitTimeoutTicks
  rw [h.wait]

section

variable {s : State} {N k : Nat} {p : SpdState} {f : Frame} {n : Nat}
variable (hpoll : isPolling s.seq = true) (hrst : NoReset N s)

include hpoll hrst

/-- A tick that does not end the poll leaves the decoder where its rule does. -/
theorem PollAt.next {t : State} {d : DecoderPhase} (h : PollAt s k d t) (hk : k < N) (hends : t.pollEnds = false) :
    PollReaches s (k + 1) ⟨t.decoderTick.spd, t.decoderTick.tmr.toNat, t.decoderTick.frame, t.decoderTick.bitcnt.toNat⟩ := by
  have hstep := step_polling_goesOn (rst_low_of_runTicks hrst h.run hk) (h.seq ▸ hpoll) hends
  have hcheck : t.spd ≠ .check := by
    intro hspd
    simp [State.pollEnds, hspd] at hends
  have hwait : t.decoderTick.waitLast = t.waitLast :=
    decoderTick_keeps (f := State.waitLast) (fun _ _ _ _ _ _ _ _ _ => rfl) t
  obtain ⟨hhum, htemp, hvalid, -⟩ := (decoderTick_move t).reading_of_not_check hcheck
  exact ⟨_, runTicks_snoc k s t _ h.run hstep, (decoderTick_seq t).trans h.seq, hhum.trans h.hum, htemp.trans h.temp,
    hvalid.trans h.valid, hwait.trans h.wait, rfl, rfl, rfl, rfl⟩

/-- While every tick only counts on, the timer tells how long the decoder's state has lasted. -/
theorem PollReaches.countsOn {r : Nat} (h : PollReaches s k ⟨p, 0, f, n⟩) (hr : r < 2 ^ 20) (hN : k + r ≤ N)
    (hcount : ∀ j t, j < r → PollAt s (k + j) ⟨p, j, f, n⟩ t → t.pollEnds = false ∧ t.decoderTick = t.countTick) :
    PollReaches s (k + r) ⟨p, r, f, n⟩ := by
  induction r with
  | zero => exact h
  | succ r ih =>
    obtain ⟨t, ht⟩ := ih (by omega) (by omega) fun j t hj => hcount j t (by omega)
    obtain ⟨hends, hd⟩ := hcount r t (by omega) ht
    have htmr : t.tmr.toNat = r := ht.tmr
    have hnext := ht.next hpoll hrst (by omega) hends
    rw [hd, State.countTick_tmr, nextTmr_toNat _ (by omega), htmr, State.countTick_spd, State.countTick_frame,
      State.countTick_bitcnt, ht.spd, ht.frame, ht.bitcnt] at hnext
    exact hnext

/-- A wait that begins at tick `k`, within its timeout sees the wrong level up to tick `y` and then the awaited one, is over at
the tick after. -/
theorem PollReaches.waits {y : Nat} {level : Bool} {q : SpdState} (h : PollReaches s k ⟨p, 0, f, n⟩)
    (hwait : awaitedLevel p = some level) (hnext : ∀ t : State, t.spd = p → t.bitcnt.toNat = n → nextSpd t = q)
    (hky : k ≤ y) (hlt : y - k < s.waitTimeoutTicks) (hN : y < N) (hwrong : Steady s (!level) k y)
    (hright : (levels s y).dqIn = level) : PollReaches s (y + 1) ⟨q, 0, f, n⟩ := by
  have hmax : s.waitTimeoutTicks ≤ 2 ^ 20 := s.waitLast.isLt
  obtain ⟨r, rfl⟩ := Nat.exists_eq_add_of_le hky
  obtain ⟨t, ht⟩ := h.countsOn (r := r) hpoll hrst (by omega) (by omega) fun j t hj ht => by
    have hpin : t.pins.dqIn ≠ level := by
      rw [ht.pins, hwrong _ (by omega) (by omega)]
      exact Bool.not_ne_self level
    have htmr : t.tmr ≠ t.waitLast := by
      rw [Ne, tmr_eq_waitLast, ht.tmr, ht.waitTimeoutTicks]
      show ¬j = _
      omega
    have hawait : awaitedLevel t.spd = some level := ht.spd ▸ hwait
    refine ⟨by simp [pollEnds_of_awaiting t hawait, htmr], ?_⟩
    rw [decoderTick_of_awaiting hawait]
    unfold State.await
    rw [if_neg hpin, if_neg htmr]
  have hpin : t.pins.dqIn = level := by rw [ht.pins, hright]
  have hawait : awaitedLevel t.spd = some level := ht.spd ▸ hwait
  have hd : t.decoderTick = t.goSpd q := by
    rw [decoderTick_of_awaiting hawait, hnext t ht.spd ht.bitcnt]
    exact if_pos hpin
  have hlast := ht.next hpoll hrst hN (by simp [pollEnds_of_awaiting t hawait, hpin])
  rw [hd, State.goSpd_spd, State.goSpd_tmr, State.goSpd_frame, State.goSpd_bitcnt, ht.frame, ht.bitcnt] at hlast
  exact hlast

/-- The delay before a sample lasts 29 ticks, and the level at the last of them is shifted in (R118, R122). -/
theorem PollReaches.samples (h : PollReaches s k ⟨.bitDelay, 0, f, n⟩) (hn : n < 63) (hN : k + 28 < N) :
    PollReaches s (k + 29) ⟨.bitFall, 0, shiftIn f (levels s (k + 28)).dqIn, n + 1⟩ := by
  have hends {j : Nat} {t : State} (ht : PollAt s (k + j) ⟨.bitDelay, j, f, n⟩ t) : t.pollEnds = false :=
    pollEnds_of_not_awaiting t (by rw [ht.spd]; rfl) (by simp [ht.spd])
  obtain ⟨t, ht⟩ := h.countsOn (r := 28) hpoll hrst (by omega) (by omega) fun j t hj ht => by
    have htmr : t.tmr.toNat = j := ht.tmr
    exact ⟨hends ht, (decoderTick_of_bitDelay ht.spd).trans (if_neg (by omega))⟩
  have hd : t.decoderTick = t.sample.goSpd .bitFall := (decoderTick_of_bitDelay ht.spd).trans (if_pos ht.tmr)
  have hbitcnt : t.bitcnt.toNat = n := ht.bitcnt
  have hlast := ht.next hpoll hrst hN (hends ht)
  rw [hd, State.goSpd_spd, State.goSpd_tmr, State.goSpd_frame, State.goSpd_bitcnt, State.sample_frame, State.sample_bitcnt,
    nextBitcnt_toNat _ (by omega), hbitcnt, ht.frame, ht.pins] at hlast
  exact hlast

end

end Sys2Proof.Proofs
end

