-- ==== Sys2Proof/Proofs/WholePoll.lean ====
section
/-! A whole poll (20_memory.md R62; 30_encoding.md R97; 41_sensor_protocol_decoder.md R121 to R125, R128): the sensor's waveform
taken apart into pulses, each read as the bit it stands for, and the bits put together to the frame. -/

namespace Sys2Proof.Proofs

open Sys2Proof.Machine Sys2Proof.Safety Sys2Proof.Laws

/-! ### The frame as the bits shifted in -/

/-- A shift in puts the new bit in place 0 and moves the others up. -/
theorem getLsbD_shiftIn (f : Frame) (b : Bool) (i : Nat) (hi : i < 40) :
    (shiftIn f b).getLsbD i = if i = 0 then b else f.getLsbD (i - 1) := by
  unfold shiftIn
  rw [BitVec.getLsbD_append]
  cases i with
  | zero => simp
  | succ i =>
    have hlt : i < 39 := by omega
    simp [hlt]

/-- A list of bits shifted in stands in the register from its last bit, in place 0, upwards. -/
theorem getLsbD_foldl_shiftIn (bs : List Bool) (f : Frame) (i : Nat) (hlen : i < bs.length) (hi : i < 40) :
    (bs.foldl shiftIn f).getLsbD i = bs.reverse[i]'(by simpa using hlen) := by
  induction bs using List.reverseRecOn generalizing i with
  | nil => simp at hlen
  | append_singleton bs b ih =>
    rw [List.foldl_concat, getLsbD_shiftIn _ _ _ hi]
    cases i with
    | zero => simp
    | succ i => simpa using ih i (by simpa using hlen) (by omega)

/-- Shifting in a frame's bits, bit 39 first, gives the frame, whatever was in the register (R62, R122). -/
theorem foldl_shiftIn_frameBitList (f g : Frame) : (frameBitList f).foldl shiftIn g = f := by
  refine BitVec.eq_of_getLsbD_eq fun i hi => ?_
  rw [getLsbD_foldl_shiftIn _ _ _ (by simpa [frameBitList] using hi) hi]
  simp [frameBitList, show 39 - (39 - i) = i by omega]

/-- The last bit of a frame to arrive is bit 0. -/
theorem frameBitList_eq_concat (f : Frame) : ∃ bs, frameBitList f = bs ++ [f.getLsbD 0] := by
  unfold frameBitList
  rw [List.range_succ, List.map_append]
  exact ⟨_, rfl⟩

/-! ### The waveform -/

/-- The width of the pulse that stands for a bit. -/
def pulseWidth (sh : Shape) (bit : Bool) : Nat :=
  if bit then sh.d1 else sh.d0

/-- How far into the low after a pulse the decoder goes on: it sees the fall of a long pulse at once, that of a short one after
its sample (R121, R128). -/
def overrun (sh : Shape) (bit : Bool) : Nat :=
  if bit then 1 else 31 - sh.d0

/-- The data bits of an answer and the low that ends it. -/
def dataWave (sh : Shape) (bits : List Bool) : List Bool :=
  bits.flatMap (bitWave sh) ++ List.replicate sh.e false

theorem dataWave_cons (sh : Shape) (bit : Bool) (bits : List Bool) :
    dataWave sh (bit :: bits) =
      List.replicate sh.l false ++ (List.replicate (pulseWidth sh bit) true ++ dataWave sh bits) := by
  simp [dataWave, bitWave, pulseWidth]

theorem answerWave_eq (sh : Shape) (f : Frame) :
    answerWave sh f = List.replicate sh.a true ++ (List.replicate sh.b false ++ (List.replicate sh.c true ++
      dataWave sh (frameBitList f))) := by
  simp [answerWave, dataWave]

/-- `dq_in` follows the levels of a list from tick `x` on, ticks counted from `s`. -/
def HearsFrom (s : State) (x : Nat) (wave : List Bool) : Prop :=
  ∀ k level, wave[k]? = some level → (levels s (x + k)).dqIn = level

/-- To hear a level for `n` ticks and then a wave is to hear a steady level and then the wave. -/
theorem HearsFrom.replicate_append {s : State} {x n : Nat} {level : Bool} {wave : List Bool}
    (h : HearsFrom s x (List.replicate n level ++ wave)) : Steady s level x (x + n) ∧ HearsFrom s (x + n) wave := by
  refine ⟨fun i hx hi => ?_, fun k level' hk => ?_⟩
  · obtain ⟨j, rfl⟩ := Nat.exists_eq_add_of_le hx
    refine h j level ?_
    rw [List.getElem?_append_left (by simpa using hi), List.getElem?_replicate, if_pos (by omega)]
  · rw [Nat.add_assoc]
    refine h (n + k) level' ?_
    rw [List.getElem?_append_right (by simp)]
    simpa using hk

/-- Data bits and what ends them begin with a low. -/
theorem HearsFrom.dataWave_low {s : State} {x c : Nat} {sh : Shape} {bits : List Bool} (h : HearsFrom s x (dataWave sh bits))
    (hl : c ≤ sh.l) (he : c ≤ sh.e) : Steady s false x (x + c) := by
  cases bits with
  | nil =>
    have h' : HearsFrom s x (List.replicate sh.e false ++ []) := by simpa [dataWave] using h
    obtain ⟨hlow, -⟩ := h'.replicate_append
    exact fun i hx hi => hlow i hx (by omega)
  | cons bit bits =>
    rw [dataWave_cons] at h
    obtain ⟨hlow, -⟩ := h.replicate_append
    exact fun i hx hi => hlow i hx (by omega)

/-- In a readable shape the decoder is past its sample before the low after any pulse ends (R128, R129). -/
theorem overrun_bounds {sh : Shape} {w : Nat} (h : ShapeReadable sh w) (bit : Bool) :
    1 ≤ overrun sh bit ∧ overrun sh bit ≤ sh.l ∧ overrun sh bit ≤ sh.e := by
  unfold ShapeReadable at h
  cases bit <;> simp only [overrun, if_true, if_false, Bool.false_eq_true] <;> omega

/-- In a readable shape a pulse is still high at the sample, 29 ticks after its first tick, iff it stands for a 1; the decoder
then awaits its fall for what is left of it (R121, R129). -/
theorem pulseWidth_bounds {sh : Shape} {w : Nat} (h : ShapeReadable sh w) (bit : Bool) :
    1 ≤ pulseWidth sh bit ∧ (bit = true ↔ 30 ≤ pulseWidth sh bit) ∧ pulseWidth sh bit - 30 < w ∧
      pulseWidth sh bit + overrun sh bit = 30 + (pulseWidth sh bit - 30) + 1 := by
  unfold ShapeReadable at h
  cases bit <;> simp only [pulseWidth, overrun, if_true, if_false, Bool.false_eq_true, true_iff, false_iff] <;> omega

/-- The ticks of the data bits (R97). -/
theorem length_flatMap_bitWave (sh : Shape) (bits : List Bool) :
    (bits.flatMap (bitWave sh)).length = bits.length * sh.l + bits.count true * sh.d1 + bits.count false * sh.d0 := by
  induction bits with
  | nil => simp
  | cons bit bits ih =>
    rw [List.flatMap_cons, List.length_append, ih]
    cases bit <;> simp [bitWave, Nat.add_mul, Nat.add_assoc, Nat.add_comm, Nat.add_left_comm]

/-- The tick at which the decoder is through with data bits that begin at tick `x`, if it was `c` ticks past their beginning. -/
def bitsEnd (sh : Shape) (x c : Nat) (bits : List Bool) : Nat :=
  x + (bits.flatMap (bitWave sh)).length + bits.foldl (fun _ bit => overrun sh bit) c

theorem bitsEnd_cons (sh : Shape) (x c : Nat) (bit : Bool) (bits : List Bool) :
    bitsEnd sh x c (bit :: bits) = bitsEnd sh (x + sh.l + pulseWidth sh bit) (overrun sh bit) bits := by
  simp [bitsEnd, bitWave, pulseWidth, Nat.add_assoc]

/-- The decoder goes on: it is not through with the bits before it has begun with them. -/
theorem le_bitsEnd {sh : Shape} {x c : Nat} (bits : List Bool) (hc : c ≤ sh.l) : x + c ≤ bitsEnd sh x c bits := by
  cases bits with
  | nil => simp [bitsEnd]
  | cons bit bits =>
    simp only [bitsEnd, List.flatMap_cons, List.length_append, bitWave, List.length_replicate]
    omega

/-- CHECK comes when the decoder is through with the frame's bits (R128). -/
theorem bitsEnd_frameBitList {sh : Shape} {w : Nat} (h : ShapeReadable sh w) (f : Frame) :
    bitsEnd sh (sh.a + sh.b + sh.c) 1 (frameBitList f) = checkTick sh f := by
  obtain ⟨bs, hbs⟩ := frameBitList_eq_concat f
  have hlen : (frameBitList f).length = 40 := by simp [frameBitList]
  unfold bitsEnd checkTick
  rw [length_flatMap_bitWave, hlen]
  have hlast : (frameBitList f).foldl (fun _ bit => overrun sh bit) 1 = overrun sh (f.getLsbD 0) := by
    rw [hbs, List.foldl_concat]
  rw [hlast]
  obtain ⟨-, -, -, -, -, -, -, -, hd0, -⟩ := h
  cases hbit : f.getLsbD 0 with
  | true => simp [overrun]
  | false =>
    have hmem : false ∈ frameBitList f := by rw [hbs, hbit]; simp
    have hone : sh.d0 ≤ (frameBitList f).count false * sh.d0 :=
      Nat.le_mul_of_pos_left _ (List.count_pos_iff.mpr hmem)
    simp only [overrun, Bool.false_eq_true, if_false]
    omega

/-! ### The bits of a poll -/

section

variable {s : State} {N : Nat} {sh : Shape}
variable (hpoll : isPolling s.seq = true) (hrst : NoReset N s) (hsh : ShapeReadable sh s.waitTimeoutTicks)

include hpoll hrst hsh

/-- The acknowledge of an answer: the decoder awaits the first data bit from the second tick of its low gap (R114 to R116). -/
theorem pollReaches_firstBit {f : Frame} {bits : List Bool} (h : PollReaches s 0 ⟨.ackL1, 0, f, 0⟩)
    (hhigh : Steady s true 0 sh.a) (hlow : Steady s false sh.a (sh.a + sh.b))
    (hhigh' : Steady s true (sh.a + sh.b) (sh.a + sh.b + sh.c))
    (hears : HearsFrom s (sh.a + sh.b + sh.c) (dataWave sh bits)) (hN : sh.a + sh.b + sh.c < N) :
    PollReaches s (sh.a + sh.b + sh.c + 1) ⟨.bitRise, 0, f, 0⟩ := by
  obtain ⟨ha, hb, hb', hc, hc', hl, -, -, -, -, -, -, he, -⟩ := hsh
  have hgap := hears.dataWave_low hl he
  have hackH : PollReaches s (sh.a + 1) ⟨.ackH, 0, f, 0⟩ :=
    h.waits hpoll hrst rfl (fun t hspd _ => by simp [nextSpd, hspd]) (by omega) (by omega) (by omega) hhigh
      (hlow _ (by omega) (by omega))
  have hackL2 : PollReaches s (sh.a + sh.b + 1) ⟨.ackL2, 0, f, 0⟩ :=
    hackH.waits hpoll hrst rfl (fun t hspd _ => by simp [nextSpd, hspd]) (by omega) (by omega) (by omega)
      (fun i hi => hlow i (by omega)) (hhigh' _ (by omega) (by omega))
  exact hackL2.waits hpoll hrst rfl (fun t hspd _ => by simp [nextSpd, hspd]) (by omega) (by omega) (by omega)
    (fun i hi => hhigh' i (by omega)) (hgap _ (by omega) (by omega))

/-- One data bit: the pulse is awaited from `c` ticks into the low gap before it, sampled, and its fall seen `overrun` ticks into
the low after it (R117 to R119, R121). -/
theorem PollReaches.readsBit {x c n : Nat} {f : Frame} {bit : Bool} {bits : List Bool}
    (h : PollReaches s (x + c) ⟨.bitRise, 0, f, n⟩) (hn : n < 40) (hc : 1 ≤ c) (hc' : c ≤ sh.l)
    (hears : HearsFrom s x (dataWave sh (bit :: bits))) (hN : x + sh.l + pulseWidth sh bit + overrun sh bit ≤ N) :
    PollReaches s (x + sh.l + pulseWidth sh bit + overrun sh bit)
      ⟨if n + 1 = 40 then .check else .bitRise, 0, shiftIn f bit, n + 1⟩ := by
  rw [dataWave_cons] at hears
  obtain ⟨hlow, hears⟩ := hears.replicate_append
  obtain ⟨hhigh, hears⟩ := hears.replicate_append
  obtain ⟨-, hol, hoe⟩ := overrun_bounds hsh bit
  obtain ⟨hpos, hlong, hfalls, htotal⟩ := pulseWidth_bounds hsh bit
  have hafter := hears.dataWave_low hol hoe
  obtain ⟨-, -, -, -, -, -, hl, -⟩ := hsh
  have hdelay : PollReaches s (x + sh.l + 1) ⟨.bitDelay, 0, f, n⟩ :=
    h.waits hpoll hrst rfl (fun t hspd _ => by simp [nextSpd, hspd]) (by omega) (by omega) (by omega)
      (fun i hi => hlow i (by omega)) (hhigh _ (by omega) (by omega))
  have hsample : (levels s (x + sh.l + 1 + 28)).dqIn = bit := by
    cases bit with
    | true =>
      have hwide := hlong.mp rfl
      exact hhigh _ (by omega) (by omega)
    | false =>
      have hnarrow := mt hlong.mpr Bool.false_ne_true
      exact hafter _ (by omega) (by omega)
  have hfall : PollReaches s (x + sh.l + 30) ⟨.bitFall, 0, shiftIn f bit, n + 1⟩ :=
    hsample ▸ hdelay.samples hpoll hrst (by omega) (by omega)
  have hend : x + sh.l + pulseWidth sh bit + overrun sh bit = x + sh.l + 30 + (pulseWidth sh bit - 30) + 1 := by omega
  rw [hend]
  exact hfall.waits hpoll hrst rfl (fun t hspd hbitcnt => by simp [nextSpd, hspd, hbitcnt, frameBits]) (by omega) (by omega)
    (by omega) (fun i hi hi' => hhigh i (by omega) (by omega)) (hafter _ (by omega) (by omega))

/-- All data bits: from any of them on, the rest is shifted in bit for bit and CHECK follows the 40th. -/
theorem PollReaches.readsBits (bits : List Bool) {x c n : Nat} {f : Frame}
    (h : PollReaches s (x + c) ⟨if n = 40 then .check else .bitRise, 0, f, n⟩) (hn : n + bits.length = 40) (hc : 1 ≤ c)
    (hc' : c ≤ sh.l) (hears : HearsFrom s x (dataWave sh bits)) (hN : bitsEnd sh x c bits ≤ N) :
    PollReaches s (bitsEnd sh x c bits) ⟨.check, 0, bits.foldl shiftIn f, 40⟩ := by
  induction bits generalizing x c n f with
  | nil =>
    obtain rfl : n = 40 := hn
    exact h
  | cons bit bits ih =>
    rw [List.length_cons] at hn
    rw [bitsEnd_cons] at hN ⊢
    obtain ⟨ho, hol, -⟩ := overrun_bounds hsh bit
    have hle := le_bitsEnd (x := x + sh.l + pulseWidth sh bit) bits hol
    rw [if_neg (by omega)] at h
    have hbit := h.readsBit hpoll hrst hsh (by omega) hc hc' hears (by omega)
    rw [dataWave_cons] at hears
    obtain ⟨-, hears⟩ := hears.replicate_append
    obtain ⟨-, hears⟩ := hears.replicate_append
    exact ih hbit (by omega) ho hol hears hN

/-- The whole answer: at the tick R128 gives the decoder is in CHECK with the frame that was sent. -/
theorem pollReaches_check {f g : Frame} (h : PollReaches s 0 ⟨.ackL1, 0, g, 0⟩) (hears : HearsFrom s 0 (answerWave sh f))
    (hN : checkTick sh f ≤ N) : PollReaches s (checkTick sh f) ⟨.check, 0, f, 40⟩ := by
  have hend := bitsEnd_frameBitList hsh f
  obtain ⟨ho, hol, hoe⟩ := overrun_bounds hsh true
  have hstart : sh.a + sh.b + sh.c + 1 ≤ checkTick sh f := hend ▸ le_bitsEnd (frameBitList f) hol
  rw [answerWave_eq] at hears
  obtain ⟨hhigh, hears⟩ := hears.replicate_append
  obtain ⟨hlow, hears⟩ := hears.replicate_append
  obtain ⟨hhigh', hears⟩ := hears.replicate_append
  rw [Nat.zero_add] at hhigh hlow hhigh' hears
  have hfirst := pollReaches_firstBit hpoll hrst hsh h hhigh hlow hhigh' hears (by omega)
  have hcheck := PollReaches.readsBits (n := 0) hpoll hrst hsh (frameBitList f) hfirst (by simp [frameBitList]) (le_refl 1) hol hears
    (hend ▸ hN)
  rwa [hend, foldl_shiftIn_frameBitList] at hcheck

end

/-- Settles O59: the answer is read up to CHECK, and one more tick there is the outcome the frame selects. -/
theorem wholePollReadsTheFrame : Obligations.WholePollReadsTheFrame := by
  intro s sh f hpoll hspd htmr hbitcnt hsh hrst hwave
  have hstart : PollReaches s 0 ⟨.ackL1, 0, s.frame, 0⟩ :=
    ⟨s, rfl, rfl, rfl, rfl, rfl, rfl, hspd, congrArg BitVec.toNat htmr, rfl, congrArg BitVec.toNat hbitcnt⟩
  have hears : HearsFrom s 0 (answerWave sh f) := fun k level hk => by
    rw [Nat.zero_add]
    exact hwave k level hk
  obtain ⟨t, ht⟩ := pollReaches_check hpoll hrst hsh hstart hears (Nat.le_succ _)
  have hcheck : t.spd = .check := ht.spd
  have hframe : t.frame = f := ht.frame
  refine ⟨⟨t, ht.run, hcheck, hframe, ht.bitcnt, ht.seq, ht.hum, ht.temp, ht.valid⟩, ?_⟩
  obtain ⟨u, hstep, hspd', hgood, hbad⟩ := step_check
    (rst_low_of_runTicks hrst ht.run (Nat.lt_succ_self _)) (ht.seq ▸ hpoll) hcheck
  rw [hframe] at hgood hbad
  rw [ht.hum, ht.temp, ht.valid] at hbad
  exact ⟨u, runTicks_snoc _ s t u ht.run hstep, hspd', hgood, hbad⟩

end Sys2Proof.Proofs
end

