-- ==== Sys2Proof/Proofs/Encodings.lean ====
section
/-! The decoder and the encoder as inverses of each other, one format after the other (30_encoding.md R84 to R89): the codes of the
two state registers, the button events, the pending flags, and the frame with its checksum. -/

namespace Sys2Proof.Proofs

open Sys2Proof.Machine Sys2Proof.Safety Sys2Proof.Laws

/-! ### State codes (R88, R89, R95) -/

/-- A `seq` code names one state. -/
theorem seqCode_of_ofCode {w : BitVec 5} {q : SeqState} (h : SeqState.ofCode w = some q) : q.code = w := by
  unfold SeqState.ofCode at h
  split at h <;> cases h <;> exact BitVec.eq_of_toNat_eq (Eq.symm ‹_›)

/-- A `spd` code names one state. -/
theorem spdCode_of_ofCode {w : BitVec 4} {p : SpdState} (h : SpdState.ofCode w = some p) : p.code = w := by
  unfold SpdState.ofCode at h
  split at h <;> cases h <;> exact BitVec.eq_of_toNat_eq (Eq.symm ‹_›)

/-- The reserved `seq` codes are 23 to 31. -/
theorem seqOfCode_eq_none (w : BitVec 5) : SeqState.ofCode w = none ↔ 23 ≤ w.toNat := by
  unfold SeqState.ofCode
  split
  case h_24 =>
    refine iff_of_true rfl ?_
    simp only [imp_false] at *
    omega
  all_goals exact iff_of_false (by simp) (by omega)

/-- The reserved `spd` codes are 10 to 15. -/
theorem spdOfCode_eq_none (w : BitVec 4) : SpdState.ofCode w = none ↔ 10 ≤ w.toNat := by
  unfold SpdState.ofCode
  split
  case h_11 =>
    refine iff_of_true rfl ?_
    simp only [imp_false] at *
    omega
  all_goals exact iff_of_false (by simp) (by omega)

/-- The operation of a sequencer state has the state's code as its word. -/
theorem encode_seqInstr (q : SeqState) : encode q.instr = .seq5 q.code ∧ q.instr.wf = true := by
  cases q <;> exact ⟨rfl, rfl⟩

/-- The operation of a decoder state has the state's code as its word. -/
theorem encode_spdInstr (p : SpdState) : encode p.instr = .spd4 p.code ∧ p.instr.wf = true := by
  cases p <;> exact ⟨rfl, rfl⟩

/-- A `seq` word decodes to the operation of the state it names. -/
theorem decode_seq5_eq_ok (w : BitVec 5) (i : Instr) :
    decode (.seq5 w) = .ok i ↔ ∃ q, SeqState.ofCode w = some q ∧ q.instr = i := by
  cases h : SeqState.ofCode w <;> simp [decode, h]

/-- A `spd` word decodes to the operation of the state it names. -/
theorem decode_spd4_eq_ok (w : BitVec 4) (i : Instr) :
    decode (.spd4 w) = .ok i ↔ ∃ p, SpdState.ofCode w = some p ∧ p.instr = i := by
  cases h : SpdState.ofCode w <;> simp [decode, h]

/-- A `seq` word is refused iff it names no state. -/
theorem decode_seq5_eq_reserved (w : BitVec 5) :
    decode (.seq5 w) = .error (.reservedSeq w) ↔ SeqState.ofCode w = none := by
  cases h : SeqState.ofCode w <;> simp [decode, h]

/-- A `spd` word is refused iff it names no state. -/
theorem decode_spd4_eq_reserved (w : BitVec 4) :
    decode (.spd4 w) = .error (.reservedSpd w) ↔ SpdState.ofCode w = none := by
  cases h : SpdState.ofCode w <;> simp [decode, h]

/-! ### Button events (R87) -/

/-- A tap of UP is SELHI. -/
theorem decodeEvt_up_tap (q : Quantity) (b : Bound) : decodeEvt (evtWord 0 false q b) = .selhi q b := by
  cases q <;> cases b <;> rfl

/-- A tap of DOWN is SELLO. -/
theorem decodeEvt_down_tap (q : Quantity) (b : Bound) : decodeEvt (evtWord 1 false q b) = .sello q b := by
  cases q <;> cases b <;> rfl

/-- MODE is TOGGLE, tapped or held. -/
theorem decodeEvt_mode (held : Bool) (q : Quantity) (b : Bound) : decodeEvt (evtWord 2 held q b) = .toggle held q b := by
  cases held <;> cases q <;> cases b <;> rfl

/-- A tap of OK is OKTAP. -/
theorem decodeEvt_ok_tap (q : Quantity) (b : Bound) : decodeEvt (evtWord 3 false q b) = .oktap q b := by
  cases q <;> cases b <;> rfl

/-- OK held is EXIT. -/
theorem decodeEvt_ok_held (q : Quantity) (b : Bound) : decodeEvt (evtWord 3 true q b) = .exit q b := by
  cases q <;> cases b <;> rfl

/-- Each of the 32 event words is the word of the operation it selects. -/
theorem encode_decodeEvt (w : BitVec 5) : encode (decodeEvt w) = .evt5 w ∧ (decodeEvt w).wf = true := by
  revert w
  decide

/-! ### Pending flags (R86) -/

/-- The flags of a pending word, in the order of its bits. -/
theorem pendWord_getLsbD (ok mode down up : Bool) :
    (pendWord ok mode down up).getLsbD 0 = up ∧ (pendWord ok mode down up).getLsbD 1 = down ∧
    (pendWord ok mode down up).getLsbD 2 = mode ∧ (pendWord ok mode down up).getLsbD 3 = ok := by
  simp only [pendWord, BitVec.getLsbD_append]
  simp

/-- A pending word is put together from its four flags. -/
theorem exists_pendWord (w : Buttons) : ∃ ok mode down up, pendWord ok mode down up = w := by
  revert w
  decide

/-- The mask of the pattern `x1xx` tests MODE. -/
theorem and_modeMask (w : Buttons) : w &&& 0b0100 = 0b0100 ↔ w.getLsbD 2 = true := by
  revert w
  decide

/-- The mask of the pattern `xx11` tests UP and DOWN. -/
theorem and_upDownMask (w : Buttons) : w &&& 0b0011 = 0b0011 ↔ (w.getLsbD 1 && w.getLsbD 0) = true := by
  revert w
  decide

/-- A word with MODE selects ENTER by the row `x1xx`. -/
theorem decode_pendWord_mode (ok down up : Bool) :
    decode (.pend4 (pendWord ok true down up)) = .ok (.enterMode ok down up) := by
  simp only [decode, decodePend, pendWord_getLsbD, if_true]

/-- A word with UP and DOWN and without MODE selects ENTER by the row `xx11`. -/
theorem decode_pendWord_upDown (ok : Bool) :
    decode (.pend4 (pendWord ok false true true)) = .ok (.enterUpDown ok false) := by
  simp only [decode, decodePend, pendWord_getLsbD, Bool.false_eq_true, if_false, Bool.and_self, if_true]

/-- A word without a trigger selects nothing. -/
theorem decode_pendWord_none (ok : Bool) {down up : Bool} (h : (down && up) = false) :
    decode (.pend4 (pendWord ok false down up)) = .error (.noTrigger (pendWord ok false down up)) := by
  simp only [decode, decodePend, pendWord_getLsbD, h, Bool.false_eq_true, if_false]

/-- A pending word that decodes shows a trigger, and its operation is ENTER of the one row or the other. -/
theorem decode_pend4_cases {w : Buttons} {i : Instr} (h : decode (.pend4 w) = .ok i) :
    (∃ ok down up, w = pendWord ok true down up ∧ i = .enterMode ok down up) ∨
    (∃ ok, w = pendWord ok false true true ∧ i = .enterUpDown ok false) := by
  obtain ⟨ok, mode, down, up, rfl⟩ := exists_pendWord w
  cases mode with
  | true => exact .inl ⟨ok, down, up, rfl, Except.ok.inj (h.symm.trans (decode_pendWord_mode ok down up))⟩
  | false =>
    cases hud : down && up with
    | true =>
      obtain ⟨rfl, rfl⟩ := (Bool.and_eq_true ..).mp hud
      exact .inr ⟨ok, rfl, Except.ok.inj (h.symm.trans (decode_pendWord_upDown ok))⟩
    | false => cases h.symm.trans (decode_pendWord_none ok hud)

/-! ### The frame (R84, R85) -/

/-- A frame put together from its bytes is good iff the sum of the first four agrees with the fifth (R85). -/
theorem frameGood_frameOf (h f t g c : Byte) :
    frameGood (frameOf h f t g c) = true ↔ (h.toNat + f.toNat + t.toNat + g.toNat) % 256 = c.toNat := by
  obtain ⟨h0, h1, h2, h3, h4⟩ := frameByte_frameOf h f t g c
  rw [frameGood, frameSum, h0, h1, h2, h3, h4, beq_iff_eq]

/-- The outcome that a frame's bytes select (R94). -/
theorem decode_frameOf (h f t g c : Byte) :
    decode (.frame40 (frameOf h f t g c)) =
      .ok (if (h.toNat + f.toNat + t.toNat + g.toNat) % 256 = c.toNat then .checkOk h f t g c else .checkBad h f t g c) := by
  obtain ⟨h0, h1, h2, h3, h4⟩ := frameByte_frameOf h f t g c
  simp only [decode, decodeFrame, frameGood_frameOf, h0, h1, h2, h3, h4]

/-- A frame is the word of the outcome it selects. -/
theorem encode_decodeFrame (f : Frame) : encode (decodeFrame f) = .frame40 f ∧ (decodeFrame f).wf = true := by
  have hword := congrArg CodeWord.frame40 (frameOf_frameByte f)
  unfold decodeFrame
  cases hgood : frameGood f with
  | true => exact ⟨hword, hgood⟩
  | false => exact ⟨hword, congrArg not hgood⟩

/-! ### The two round trips -/

/-- Settles O1: the fixed words by evaluation, an event by its button, ENTER by its flags, and a frame's outcome by the sum that its
well-formedness states. -/
theorem decodeOfEncodeGivesTheOperation : Obligations.DecodeOfEncodeGivesTheOperation := by
  intro i hwf
  cases i with
  | checkOk h f t g c => rw [encode, decode_frameOf, if_pos (beq_iff_eq.mp hwf)]
  | checkBad h f t g c => rw [encode, decode_frameOf, if_neg (bne_iff_ne.mp hwf)]
  | selhi q b => exact congrArg Except.ok (decodeEvt_up_tap q b)
  | sello q b => exact congrArg Except.ok (decodeEvt_down_tap q b)
  | toggle held q b => exact congrArg Except.ok (decodeEvt_mode held q b)
  | oktap q b => exact congrArg Except.ok (decodeEvt_ok_tap q b)
  | exit q b => exact congrArg Except.ok (decodeEvt_ok_held q b)
  | enterMode ok down up => exact decode_pendWord_mode ok down up
  | enterUpDown ok mode =>
    obtain rfl : mode = false := by simpa [Instr.wf] using hwf
    exact decode_pendWord_upDown ok
  | _ => rfl

/-- Settles O2: format by format, a word that decodes is the word of what it decodes to. -/
theorem encodeOfDecodeGivesTheWord : Obligations.EncodeOfDecodeGivesTheWord := by
  intro w i h
  cases w with
  | spd4 w =>
    obtain ⟨p, hp, rfl⟩ := (decode_spd4_eq_ok w i).mp h
    exact spdCode_of_ofCode hp ▸ encode_spdInstr p
  | seq5 w =>
    obtain ⟨q, hq, rfl⟩ := (decode_seq5_eq_ok w i).mp h
    exact seqCode_of_ofCode hq ▸ encode_seqInstr q
  | evt5 w => exact Except.ok.inj h ▸ encode_decodeEvt w
  | pend4 w => obtain ⟨ok, down, up, rfl, rfl⟩ | ⟨ok, rfl, rfl⟩ := decode_pend4_cases h <;> exact ⟨rfl, rfl⟩
  | frame40 f => exact Except.ok.inj h ▸ encode_decodeFrame f

/-! ### Words of the tables -/

/-- Settles O3: each of the nine is the word of its operation, so the round trip reads it back. -/
theorem wordsOfTheTablesDecode : Obligations.WordsOfTheTablesDecode :=
  have reads := decodeOfEncodeGivesTheOperation
  ⟨reads .bitDelay rfl, reads .aConfDecide rfl, reads .incTh rfl, reads (.toggle true .humidity .low) rfl,
    reads (.exit .temperature .high) rfl, reads (.enterMode false false false) rfl, reads (.enterUpDown true false) rfl,
    reads (.checkOk 60 0 25 0 85) rfl, reads (.checkBad 60 0 25 0 86) rfl⟩

/-- Settles O4: a code is refused where it names no state. -/
theorem reservedStateCodesAreRefused : Obligations.ReservedStateCodesAreRefused :=
  ⟨fun w => (decode_seq5_eq_reserved w).trans (seqOfCode_eq_none w),
    fun w => (decode_spd4_eq_reserved w).trans (spdOfCode_eq_none w)⟩

/-- Settles O5: the two masks are the decoder's two tests, in its order. -/
theorem entryPatternsOfThePendingFlags : Obligations.EntryPatternsOfThePendingFlags := by
  intro w
  simp only [ne_eq, and_modeMask, and_upDownMask]
  exact ⟨fun hmode => if_pos hmode, fun hmode hud => (if_neg hmode).trans (if_pos hud),
    fun hmode hud => (if_neg hmode).trans (if_neg hud)⟩

/-- Settles O6: the two sides of `decode_frameOf`. -/
theorem frameAcceptedIffTheSumAgrees : Obligations.FrameAcceptedIffTheSumAgrees := fun h f t g c =>
  ⟨fun hsum => (decode_frameOf h f t g c).trans (congrArg Except.ok (if_pos hsum)),
    fun hsum => (decode_frameOf h f t g c).trans (congrArg Except.ok (if_neg hsum))⟩

end Sys2Proof.Proofs
end

