-- ==== Sys2Proof/Proofs/NestedWords.lean ====
section
/-! The operations that a state selects by a word of its own (30_encoding.md R84, R86, R87): the event of a button at the last tick of
its `C_SET_*` state, ENTER at `S_ENTRY`, and the outcome of CHECK. -/

namespace Sys2Proof.Proofs

open Sys2Proof.Machine Sys2Proof.Safety Sys2Proof.Laws

/-! ### Button events (R169, R170, R179, R183) -/

/-- The word of UP selects the UP event: SELHI for a tap, the increment of the selected threshold for held. -/
theorem exec_decodeEvt_up (s : State) : exec (decodeEvt (s.eventWord .up)) s = .next (upEvent s) := by
  unfold upEvent State.eventWord
  cases s.held .up with
  | false => exact congrArg (exec · s) (decodeEvt_up_tap s.selQ s.selB)
  | true => cases s.selQ <;> cases s.selB <;> rfl

/-- The word of DOWN selects the DOWN event: SELLO for a tap, the decrement of the selected threshold for held. -/
theorem exec_decodeEvt_down (s : State) : exec (decodeEvt (s.eventWord .down)) s = .next (downEvent s) := by
  unfold downEvent State.eventWord
  cases s.held .down with
  | false => exact congrArg (exec · s) (decodeEvt_down_tap s.selQ s.selB)
  | true => cases s.selQ <;> cases s.selB <;> rfl

/-- The word of MODE selects TOGGLE. -/
theorem exec_decodeEvt_mode (s : State) : exec (decodeEvt (s.eventWord .mode)) s = .next (evtToggle s) :=
  congrArg (exec · s) (decodeEvt_mode (s.held .mode) s.selQ s.selB)

/-- The word of OK selects the OK event: OKTAP for a tap, EXIT for held. -/
theorem exec_decodeEvt_ok (s : State) : exec (decodeEvt (s.eventWord .ok)) s = .next (okEvent s) := by
  unfold okEvent State.eventWord
  cases s.held .ok with
  | false => exact congrArg (exec · s) (decodeEvt_ok_tap s.selQ s.selB)
  | true => exact congrArg (exec · s) (decodeEvt_ok_held s.selQ s.selB)

/-- Settles O10: at its last tick the settle delay leaves with the button's event, which its word selects. -/
theorem settledEventRunsTheDecodedWord : Obligations.SettledEventRunsTheDecodedWord := by
  intro s hlast
  have hleave (leave : State) : (.next (s.dwell tSettle leave) : Host.Outcome State Fault Refusal) = .next leave :=
    congrArg _ (if_pos hlast)
  exact ⟨decodeEvt (s.eventWord .up), decodeEvt (s.eventWord .down), decodeEvt (s.eventWord .mode), decodeEvt (s.eventWord .ok),
    upEvent s, downEvent s, evtToggle s, okEvent s, rfl, rfl, rfl, rfl,
    exec_decodeEvt_up s, hleave _, exec_decodeEvt_down s, hleave _, exec_decodeEvt_mode s, hleave _,
    exec_decodeEvt_ok s, hleave _⟩

/-! ### ENTER (R161) -/

/-- ENTER clears MODE where the word has it, UP and DOWN where it has both, and never OK. -/
theorem enterClears_pendWord (ok mode down up : Bool) :
    enterClears (pendWord ok mode down up) = pendWord false mode (down && up) (down && up) := by
  simp only [enterClears, pendWord_getLsbD]

/-- The flags that ENTER of the row `x1xx` keeps. -/
theorem not_enterClears_mode (ok down up : Bool) :
    ~~~enterClears (pendWord ok true down up) = if down && up then 0b1000 else 0b1011 := by
  rw [enterClears_pendWord]
  cases down && up <;> rfl

/-- The flags that ENTER of the row `xx11` keeps. -/
theorem not_enterClears_upDown (ok mode : Bool) :
    ~~~enterClears (pendWord ok mode true true) = if mode then 0b1000 else 0b1100 := by
  rw [enterClears_pendWord]
  cases mode <;> rfl

/-- ENTER is told by the flags it keeps. -/
theorem enter_of_keeps {w keeps : Buttons} (h : ~~~enterClears w = keeps) (s : State) :
    s.enter w = { s with pend := s.pend &&& keeps, seq := .sEntrySettle, tmr := 0 } := by
  rw [← h]
  rfl

/-- The operation that a pending word decodes to is ENTER on that word, and the word shows a trigger. -/
theorem exec_of_decode_pend4 {w : Buttons} {i : Instr} (h : decode (.pend4 w) = .ok i) (s : State) :
    entryTrigger w = true ∧ exec i s = .next (s.enter w) := by
  obtain ⟨ok, down, up, rfl, rfl⟩ | ⟨ok, rfl, rfl⟩ := decode_pend4_cases h
  · exact ⟨by simp only [entryTrigger, pendWord_getLsbD, Bool.or_true], rfl⟩
  · exact ⟨by simp only [entryTrigger, pendWord_getLsbD, Bool.and_self, Bool.true_or], rfl⟩

/-- Settles O23: ENTER on the word of each row keeps the flags the mask says. -/
theorem enterByItsTwoPatterns : Obligations.EnterByItsTwoPatterns := fun s ok mode down up =>
  ⟨congrArg Host.Outcome.next (enter_of_keeps (not_enterClears_mode ok down up) s),
    congrArg Host.Outcome.next (enter_of_keeps (not_enterClears_upDown ok mode) s)⟩

/-! ### CHECK (R123) -/

/-- The outcome that the frame selects is what CHECK does. -/
theorem exec_decodeFrame (s : State) : exec (decodeFrame s.frame) s = .next (tickCheck s) := by
  unfold decodeFrame tickCheck
  cases frameGood s.frame <;> rfl

/-- Settles O11: a word that decodes to ENTER shows the trigger that S_ENTRY tests, and a frame decodes to the outcome that CHECK
tests for. -/
theorem nestedWordsSelectTheOperation : Obligations.NestedWordsSelectTheOperation := by
  intro s
  refine ⟨fun i h => ?_, fun i h => ?_⟩
  · obtain ⟨htrigger, hexec⟩ := exec_of_decode_pend4 h s
    rw [hexec]
    exact congrArg Host.Outcome.next (if_pos htrigger)
  · obtain rfl : decodeFrame s.frame = i := Except.ok.inj h
    exact (exec_decodeFrame s).symm

end Sys2Proof.Proofs
end

