-- ==== Sys2Proof/Proofs/DecoderStates.lean ====
section
/-! The decoder's states as operations (41_sensor_protocol_decoder.md R112 to R125): a `DWELL`, a `WAIT`, or the one tick of CHECK, and
the level each puts on the pin. -/

namespace Sys2Proof.Proofs

open Sys2Proof.Machine Sys2Proof.Safety Sys2Proof.Laws

/-! ### The two timed state kinds as operations (R12) -/

/-- The shared operation `dwell` is `DWELL`. -/
theorem dwell_dwellsFor (s leave : State) (n : Nat) : DwellsFor n s (.next (s.dwell n leave)) leave := by
  obtain ⟨hlast, h⟩ | ⟨hbefore, h⟩ := dwell_cases s leave n <;> rw [h]
  · exact ⟨fun _ => rfl, fun hne => absurd hlast hne⟩
  · exact ⟨fun heq => absurd heq hbefore, fun _ => countTick_countsOn s⟩

/-- The shared operation `await` is `WAIT`. -/
theorem await_awaitsLevel (s leave : State) (level : Bool) :
    AwaitsLevel level s (.next (s.await level leave)) leave := by
  have hend := tmr_eq_waitLast s
  obtain ⟨hlevel, h⟩ | ⟨hlevel, htmr, h⟩ | ⟨hlevel, htmr, h⟩ := await_cases s leave level <;> rw [h]
  · exact ⟨fun _ => rfl, fun hne => absurd hlevel hne, fun hne => absurd hlevel hne⟩
  · exact ⟨fun heq => absurd heq hlevel, fun _ _ => rfl, fun _ hne => absurd (hend.mp htmr) hne⟩
  · exact ⟨fun heq => absurd heq hlevel, fun _ heq => absurd (hend.mpr heq) htmr, fun _ _ => countTick_countsOn s⟩

/-! ### The pin (R41) -/

/-- What the decoder drives in each of its states. -/
theorem pin_of_spd {s : State} {p : SpdState} (h : s.spd = p) :
    s.outputs.dqOe = (p == .startLow || p == .startHigh) ∧ s.outputs.dqOut = (p == .startHigh) := by
  subst h
  exact ⟨rfl, rfl⟩

/-! ### The states -/

/-- Settles O12: the operation is the identity, and no pin is driven in IDLE. -/
theorem idleDoesNothing : Obligations.IdleDoesNothing :=
  ⟨decode_spd .idle, fun _ => ⟨rfl, pin_of_spd⟩⟩

/-- Settles O15: the three are waits, and none drives the pin. -/
theorem handshakeAwaitsLowHighLow : Obligations.HandshakeAwaitsLowHighLow := by
  refine ⟨decode_spd .ackL1, decode_spd .ackH, decode_spd .ackL2, fun s => ⟨await_awaitsLevel s _ false,
    await_awaitsLevel s _ true, await_awaitsLevel s _ false, ?_⟩⟩
  rintro (hspd | hspd | hspd) <;> exact (pin_of_spd hspd).1

/-- Settles O16: BIT_RISE is a wait that does not drive the pin. -/
theorem bitRiseAwaitsHigh : Obligations.BitRiseAwaitsHigh :=
  ⟨decode_spd .bitRise, fun s => ⟨await_awaitsLevel s _ true, fun hspd => (pin_of_spd hspd).1⟩⟩

/-- Settles O17: BIT_DELAY is a dwell whose exit is SAMPLE with the transition. -/
theorem bitDelaySamplesAtItsLastTick : Obligations.BitDelaySamplesAtItsLastTick := by
  refine ⟨decode_spd .bitDelay, fun s => ?_⟩
  obtain ⟨hlast, hbefore⟩ := dwell_dwellsFor s (s.sample.goSpd .bitFall) 29
  exact ⟨fun htmr => ⟨nextBitcnt s.bitcnt, nextBitcnt_toNat s.bitcnt, hlast htmr⟩, hbefore, fun hspd => (pin_of_spd hspd).1⟩

/-- Settles O18: BIT_FALL is a wait whose exit the bit counter chooses. -/
theorem bitFallAwaitsLow : Obligations.BitFallAwaitsLow := by
  refine ⟨decode_spd .bitFall, fun s => ?_⟩
  have hwait : AwaitsLevel false s (exec .bitFall s) (s.goSpd (if s.bitcnt.toNat = 40 then .check else .bitRise)) :=
    await_awaitsLevel s _ false
  refine ⟨fun hlast => ?_, fun hmore => ?_, fun hspd => (pin_of_spd hspd).1⟩
  · rwa [if_pos hlast] at hwait
  · rwa [if_neg hmore] at hwait

/-- CHECK does what the operation does that its frame decodes to (R123). -/
theorem exec_check_of_decode {s : State} {i : Instr} (h : decode (.frame40 s.frame) = .ok i) :
    exec .check s = exec i s := by
  obtain rfl : decodeFrame s.frame = i := Except.ok.inj h
  exact (exec_decodeFrame s).symm

/-- Settles O19: the five bytes decode to CHECK.OK or CHECK.BAD by their sum, and CHECK does the same. -/
theorem checkStoresOnlyAGoodFrame : Obligations.CheckStoresOnlyAGoodFrame := by
  refine ⟨decode_spd .check, fun s h f t g c => ?_⟩
  obtain ⟨hgood, hbad⟩ := frameAcceptedIffTheSumAgrees h f t g c
  refine ⟨fun hframe hsum => ?_, fun hframe hsum => ?_, rfl, rfl, pin_of_spd⟩
  · exact exec_check_of_decode (hframe ▸ hgood hsum)
  · exact exec_check_of_decode (hframe ▸ hbad hsum)

end Sys2Proof.Proofs
end

