-- ==== Sys2Proof/Proofs/DecoderRuns.lean ====
section
/-! The decoder's states as runs in a poll (41_sensor_protocol_decoder.md R112, R113, R121, R126): how long the start pulse lasts, how
a wait that hears nothing ends the poll, and which level of a pulse is the bit. -/

namespace Sys2Proof.Proofs

open Sys2Proof.Machine Sys2Proof.Safety Sys2Proof.Laws

/-! ### The return from a poll -/

/-- The fixed successor of a polling state (R194, R198, R218). -/
def pollSuccessor (q : SeqState) : SeqState :=
  if q = .sPoll then .sShow else if q = .aConfPoll then .aConfCount else .aSustChk

/-- The operation of a polling state returns to its successor. -/
theorem exec_polling_pollSuccessor {s : State} (hpoll : isPolling s.seq = true) :
    exec s.seq.instr s = .next (s.pollReturn s.decoderTick (pollSuccessor s.seq)) := by
  cases hs : s.seq with
  | sPoll | aConfPoll | aSustPoll => rfl
  | _ => rw [hs] at hpoll; cases hpoll

/-- The tick a poll ends is the decoder's rule, the return, NOTIFY and time (R217, R248). -/
theorem step_polling_ends {s : State} (hrst : s.pins.rst = false) (hpoll : isPolling s.seq = true)
    (hends : s.pollEnds = true) :
    step s = .next (s.passTime (s.notify (s.decoderTick.goSeq (pollSuccessor s.seq)))) := by
  have hreturn : s.pollReturn s.decoderTick (pollSuccessor s.seq) = s.decoderTick.goSeq (pollSuccessor s.seq) := if_pos hends
  rw [step_of_rst_low s hrst, runTick_of_exec _ _ _ (exec_polling_pollSuccessor hpoll), hreturn]
  unfold State.withDecoder
  rw [if_pos (.inr hpoll)]

/-! ### Runs through one state -/

/-- A poll stands where its first state says. -/
theorem pollReaches_zero {s : State} {p : SpdState} {v : Nat} (hspd : s.spd = p) (htmr : s.tmr.toNat = v) :
    PollReaches s 0 ⟨p, v, s.frame, s.bitcnt.toNat⟩ :=
  ⟨s, rfl, rfl, rfl, rfl, rfl, rfl, hspd, htmr, rfl, rfl⟩

section

variable {s : State} {N k : Nat} {p : SpdState} {f : Frame} {n : Nat}
variable (hpoll : isPolling s.seq = true) (hrst : NoReset N s)

include hpoll hrst

/-- A wait goes on at the tick that hears its level, whatever the timer says (R12). -/
theorem PollAt.hears {t : State} {d : DecoderPhase} {level : Bool} (h : PollAt s k d t) (hk : k < N)
    (hwait : awaitedLevel t.spd = some level) (hright : (levels s k).dqIn = level) :
    PollReaches s (k + 1) ⟨nextSpd t, 0, d.frame, d.bitcnt⟩ := by
  have hpin : t.pins.dqIn = level := by rw [h.pins, hright]
  have hd : t.decoderTick = t.goSpd (nextSpd t) := (decoderTick_of_awaiting hwait).trans (if_pos hpin)
  have hnext := h.next hpoll hrst hk (by simp [pollEnds_of_awaiting t hwait, hpin])
  rw [hd, State.goSpd_spd, State.goSpd_tmr, State.goSpd_frame, State.goSpd_bitcnt, h.frame, h.bitcnt] at hnext
  exact hnext

/-- A wait counts on while it hears the wrong level and its last tick is still to come (R12). -/
theorem PollReaches.keepsWaiting {r : Nat} {level : Bool} (h : PollReaches s k ⟨p, 0, f, n⟩)
    (hwait : awaitedLevel p = some level) (hr : r < s.waitTimeoutTicks) (hN : k + r ≤ N)
    (hwrong : Steady s (!level) k (k + r)) : PollReaches s (k + r) ⟨p, r, f, n⟩ := by
  have hmax : s.waitTimeoutTicks ≤ 2 ^ 20 := s.waitLast.isLt
  refine h.countsOn hpoll hrst (by omega) hN fun j t hj ht => ?_
  have hawait : awaitedLevel t.spd = some level := ht.spd ▸ hwait
  have hpin : t.pins.dqIn ≠ level := by
    rw [ht.pins, hwrong _ (by omega) (by omega)]
    exact Bool.not_ne_self level
  have htmr : t.tmr ≠ t.waitLast := by
    rw [Ne, tmr_eq_waitLast, ht.tmr, ht.waitTimeoutTicks]
    show ¬j = _
    omega
  refine ⟨by simp [pollEnds_of_awaiting t hawait, htmr], ?_⟩
  rw [decoderTick_of_awaiting hawait]
  unfold State.await
  rw [if_neg hpin, if_neg htmr]

end

/-! ### The start pulse (R112, R113) -/

/-- In `p` the decoder's rule is a dwell of `m` ticks that goes on to `q`, and no poll ends there. -/
def DwellsIn (p : SpdState) (m : Nat) (q : SpdState) : Prop :=
  ∀ s : State, s.spd = p → s.pollEnds = false ∧ s.decoderTick = s.dwell m (s.goSpd q)

theorem dwellsIn_startLow : DwellsIn .startLow 20000 .startHigh := by
  intro s hspd
  refine ⟨pollEnds_of_not_awaiting s (by rw [hspd]; rfl) (by simp [hspd]), ?_⟩
  unfold State.decoderTick
  rw [hspd]
  rfl

theorem dwellsIn_startHigh : DwellsIn .startHigh 20 .ackL1 := by
  intro s hspd
  refine ⟨pollEnds_of_not_awaiting s (by rw [hspd]; rfl) (by simp [hspd]), ?_⟩
  unfold State.decoderTick
  rw [hspd]
  rfl

section

variable {s : State} {m : Nat} {p q : SpdState}
variable (hdwell : DwellsIn p (m + 1) q) (hm : m + 1 ≤ 2 ^ 20) (hpoll : isPolling s.seq = true) (hrst : NoReset (m + 1) s)

include hdwell hm hpoll hrst

/-- From its first tick such a state counts on before the last of its ticks. -/
theorem DwellsIn.stays {f : Frame} {n r : Nat} (h : PollReaches s 0 ⟨p, 0, f, n⟩) (hr : r < m + 1) :
    PollReaches s r ⟨p, r, f, n⟩ := by
  have hcounts := h.countsOn (r := r) hpoll hrst (by omega) (by omega) fun j t hj ht => by
    have htmr : t.tmr.toNat = j := ht.tmr
    obtain ⟨hends, hd⟩ := hdwell t ht.spd
    exact ⟨hends, hd.trans (if_neg (by omega))⟩
  rwa [Nat.zero_add] at hcounts

/-- At the last of them it goes on. -/
theorem DwellsIn.leaves {f : Frame} {n : Nat} (h : PollReaches s 0 ⟨p, 0, f, n⟩) :
    PollReaches s (m + 1) ⟨q, 0, f, n⟩ := by
  obtain ⟨t, ht⟩ := hdwell.stays hm hpoll hrst h (Nat.lt_succ_self m)
  obtain ⟨hends, hd⟩ := hdwell t ht.spd
  have hnext := ht.next hpoll hrst (Nat.lt_succ_self m) hends
  rw [hd.trans (if_pos ht.tmr), State.goSpd_spd, State.goSpd_tmr, State.goSpd_frame, State.goSpd_bitcnt, ht.frame,
    ht.bitcnt] at hnext
  exact hnext

/-- Entered with the timer at 0 it lasts exactly its ticks. -/
theorem DwellsIn.lasts (hspd : s.spd = p) (htmr : s.tmr = 0) :
    (∀ k, k < m + 1 → ∃ t, runTicks k s = .next t ∧ t.spd = p) ∧
    ∃ t, runTicks (m + 1) s = .next t ∧ t.spd = q ∧ t.tmr = 0 ∧ t.seq = s.seq := by
  have hstart := pollReaches_zero hspd (congrArg BitVec.toNat htmr)
  refine ⟨fun k hk => ?_, ?_⟩
  · obtain ⟨t, ht⟩ := hdwell.stays hm hpoll hrst hstart hk
    exact ⟨t, ht.run, ht.spd⟩
  · obtain ⟨t, ht⟩ := hdwell.leaves hm hpoll hrst hstart
    exact ⟨t, ht.run, ht.spd, BitVec.eq_of_toNat_eq ht.tmr, ht.seq⟩

end

/-- Settles O13: START_LOW is a dwell of 20 000 ticks that drives the pin low at each of them. -/
theorem startLowDrivesThePinLow : Obligations.StartLowDrivesThePinLow := by
  refine ⟨decode_spd .startLow, fun s => ⟨dwell_dwellsFor s _ 20000, pin_of_spd⟩, fun s hpoll hspd htmr hrst => ?_⟩
  obtain ⟨hstays, hleaves⟩ := dwellsIn_startLow.lasts (m := 19999) (by omega) hpoll hrst hspd htmr
  refine ⟨fun k hk => ?_, hleaves⟩
  obtain ⟨t, hrun, hlow⟩ := hstays k hk
  exact ⟨t, hrun, hlow, pin_of_spd hlow⟩

/-- Settles O14: START_HIGH is a dwell of 20 ticks that drives the pin high at each of them, and ACK_L1 releases it. -/
theorem startHighDrivesThePinHigh : Obligations.StartHighDrivesThePinHigh := by
  refine ⟨decode_spd .startHigh, fun s => ⟨dwell_dwellsFor s _ 20, pin_of_spd⟩, fun s hpoll hspd htmr hrst => ?_⟩
  obtain ⟨hstays, t, hrun, hack, hzero, hseq⟩ :=
    dwellsIn_startHigh.lasts (m := 19) (by omega) hpoll hrst hspd htmr
  refine ⟨fun k hk => ?_, t, hrun, hack, hzero, hseq, (pin_of_spd hack).1⟩
  obtain ⟨t, hrun, hhigh⟩ := hstays k hk
  exact ⟨t, hrun, hhigh, pin_of_spd hhigh⟩

/-! ### The bit decision (R121) -/

/-- Settles O56: the tick that sees the rise leads to the delay, whose last tick is the 29th after it; there a pulse of `d` ticks is
still high iff `d` is 30 or more. -/
theorem pulseWidthDecidesTheBit : Obligations.PulseWidthDecidesTheBit := by
  intro s hpoll hspd hbitcnt hrst hrise
  obtain ⟨t, ht⟩ := pollReaches_zero hspd rfl
  have hspd' : t.spd = .bitRise := ht.spd
  have hdelay : PollReaches s 1 ⟨.bitDelay, 0, s.frame, s.bitcnt.toNat⟩ := by
    have hnext := ht.hears hpoll hrst (by omega) (level := true) (by rw [hspd']; rfl) hrise
    rwa [show nextSpd t = .bitDelay by simp [nextSpd, hspd']] at hnext
  obtain ⟨u, hu⟩ := hdelay.samples hpoll hrst hbitcnt (by omega)
  refine ⟨u, hu.run, hu.spd, BitVec.eq_of_toNat_eq hu.tmr, hu.bitcnt, hu.frame, fun d hd hhigh hlow => ?_⟩
  have hsample : (levels s 29).dqIn = decide (30 ≤ d) := by
    by_cases hwide : 30 ≤ d
    · rw [hhigh 29 (by omega), decide_eq_true hwide]
    · rw [hlow 29 (by omega) (by omega), decide_eq_false hwide]
  exact hsample ▸ hu.frame

/-! ### A wait that hears nothing (R126, R241) -/

/-- At a wait's last tick the wrong level ends the poll with NoResponse, and the decoder's rule is to take that error. -/
theorem timesOut_of_wrongLevel {s : State} {level : Bool} (hwait : awaitedLevel s.spd = some level)
    (hwrong : s.pins.dqIn ≠ level) (hlast : s.tmr = s.waitLast) :
    s.pollEnds = true ∧ s.decoderTick = s.endPoll .noResponse := by
  refine ⟨by simp [pollEnds_of_awaiting s hwait, hwrong, hlast], ?_⟩
  rw [decoderTick_of_awaiting hwait]
  unfold State.await
  rw [if_neg hwrong, if_pos hlast]

/-- Settles O57: the wait counts on up to its last tick, where it times out and the caller goes on. -/
theorem silentWaitEndsInNoResponse : Obligations.SilentWaitEndsInNoResponse := by
  intro s level hpoll hwait htmr hrst hwrong
  have hstart := pollReaches_zero (s := s) rfl (congrArg BitVec.toNat htmr)
  have hwaits (k : Nat) (hk : k < s.waitTimeoutTicks) : PollReaches s k ⟨s.spd, k, s.frame, s.bitcnt.toNat⟩ := by
    have h := hstart.keepsWaiting (r := k) hpoll hrst hwait hk (by omega) fun i _ hi => hwrong i (by omega)
    rwa [Nat.zero_add] at h
  refine ⟨fun k hk => ?_, ?_⟩
  · obtain ⟨t, ht⟩ := hwaits k hk
    exact ⟨t, ht.run, ht.spd, ht.seq, ht.tmr⟩
  · have hlt : s.waitLast.toNat < s.waitTimeoutTicks := Nat.lt_succ_self _
    obtain ⟨t, ht⟩ := hwaits _ hlt
    have hspd : t.spd = s.spd := ht.spd
    have hlast : t.tmr = t.waitLast := BitVec.eq_of_toNat_eq (by rw [ht.tmr, ht.wait])
    have hpin : t.pins.dqIn ≠ level := by
      rw [ht.pins, hwrong _ hlt]
      exact Bool.not_ne_self level
    obtain ⟨hends, hd⟩ := timesOut_of_wrongLevel (hspd ▸ hwait) hpin hlast
    have hstep := step_polling_ends (rst_low_of_runTicks hrst ht.run hlt) (ht.seq ▸ hpoll) hends
    rw [hd, ht.seq] at hstep
    exact ⟨_, runTicks_snoc _ s t _ ht.run hstep, rfl, rfl, rfl, ht.hum, ht.temp, ht.valid, rfl⟩

end Sys2Proof.Proofs
end

