-- ==== Sys2Proof/Proofs/PollBound.lean ====
section
/-! Every poll ends (41_sensor_protocol_decoder.md R127): an upper bound on the ticks a poll still lasts, which every tick of it
lowers, whatever the levels are. -/

namespace Sys2Proof.Proofs

open Sys2Proof.Machine Sys2Proof.Safety Sys2Proof.Laws

/-! ### The bound -/

/-- The most ticks that the bits after the first `n` can take, with waits of `w` ticks, and CHECK's one tick: per bit the waits for
its rise and its fall and the delay of 29 ticks. -/
def dataTicks (w n : Nat) : Nat :=
  (40 - n) * (2 * w + 29) + 1

/-- Each bit takes its share. -/
theorem dataTicks_of_lt {n : Nat} (w : Nat) (h : n < 40) : dataTicks w n = dataTicks w (n + 1) + (2 * w + 29) := by
  unfold dataTicks
  rw [show 40 - n = 40 - (n + 1) + 1 by omega, Nat.succ_mul]
  omega

/-- CHECK's tick is left after every bit. -/
theorem dataTicks_pos (w n : Nat) : 1 ≤ dataTicks w n :=
  Nat.succ_pos _

/-- The most ticks a poll can last from the first tick of a decoder state, with waits of `w` ticks and `n` bits shifted in. -/
def phaseTicks (w n : Nat) : SpdState → Nat
  | .startLow => 20000 + (20 + (3 * w + dataTicks w n))
  | .startHigh => 20 + (3 * w + dataTicks w n)
  | .ackL1 => 3 * w + dataTicks w n
  | .ackH => 2 * w + dataTicks w n
  | .ackL2 => w + dataTicks w n
  | .bitRise => dataTicks w n
  | .bitDelay => 29 + w + dataTicks w (n + 1)
  | .bitFall => w + dataTicks w n
  | .check => 1
  | .idle => 0

/-- The most ticks a poll can still last: of the current decoder state's share, `tmr` ticks are over. -/
def ticksLeft (s : State) : Nat :=
  phaseTicks s.waitTimeoutTicks s.bitcnt.toNat s.spd - s.tmr.toNat

/-- A state's share holds the ticks it may last itself. -/
theorem spdTicks_le_phaseTicks {s : State} (hframe : FrameInRange s) (hidle : s.spd ≠ .idle) :
    spdTicks s ≤ phaseTicks s.waitTimeoutTicks s.bitcnt.toNat s.spd := by
  obtain ⟨-, -, hphase⟩ := hframe
  unfold spdTicks
  cases hspd : s.spd with
  | idle => exact absurd hspd hidle
  | bitRise =>
    rw [hspd] at hphase
    have hbit := dataTicks_of_lt s.waitTimeoutTicks hphase
    simp only [phaseTicks]
    omega
  | startLow | startHigh | ackL1 | ackH | ackL2 | bitDelay | bitFall | check =>
    simp only [phaseTicks]
    omega

/-- The state a decoder state passes on to has what the ticks of the one before leave of its share. -/
theorem phaseTicks_nextSpd {s : State} (hframe : FrameInRange s) (hspd : s.spd ∈ passingSpdStates) :
    phaseTicks s.waitTimeoutTicks s.bitcnt.toNat (nextSpd s) + spdTicks s ≤
      phaseTicks s.waitTimeoutTicks s.bitcnt.toNat s.spd := by
  obtain ⟨-, -, hphase⟩ := hframe
  unfold spdTicks nextSpd
  cases hs : s.spd with
  | idle | bitDelay | check => rw [hs] at hspd; simp [passingSpdStates] at hspd
  | startLow | startHigh | ackL1 | ackH | ackL2 =>
    simp only [phaseTicks]
    omega
  | bitRise =>
    rw [hs] at hphase
    have hbit := dataTicks_of_lt s.waitTimeoutTicks hphase
    simp only [phaseTicks]
    omega
  | bitFall =>
    have hcheck := dataTicks_pos s.waitTimeoutTicks s.bitcnt.toNat
    dsimp only
    split <;> simp only [phaseTicks] <;> omega

/-! ### The bound falls -/

/-- In a poll a tick is left. -/
theorem ticksLeft_pos {s : State} (htimer : TimerInRange s) (hframe : FrameInRange s) (hidle : s.spd ≠ .idle) :
    0 < ticksLeft s := by
  have hshare := spdTicks_le_phaseTicks hframe hidle
  unfold TimerInRange at htimer
  rw [if_neg hidle] at htimer
  unfold ticksLeft
  omega

/-- A move of the decoder that does not end the poll lowers the bound. -/
theorem DecoderMove.ticksLeft_lt {s d : State} (h : DecoderMove s d) (hends : s.pollEnds = false)
    (htimer : TimerInRange s) (hframe : FrameInRange s) (hidle : s.spd ≠ .idle) : ticksLeft d < ticksLeft s := by
  have hshare := spdTicks_le_phaseTicks hframe hidle
  unfold TimerInRange at htimer
  rw [if_neg hidle] at htimer
  cases h with
  | rests hspd => exact absurd hspd hidle
  | counts _ hlast =>
    have hmax := (spdTicks_bounds s).2
    have hlater : ticksLeft s.countTick =
        phaseTicks s.waitTimeoutTicks s.bitcnt.toNat s.spd - (nextTmr s.tmr).toNat := rfl
    rw [hlater, nextTmr_toNat _ (by omega)]
    unfold ticksLeft
    omega
  | passes hspd =>
    have hnext := phaseTicks_nextSpd hframe hspd
    have hfirst : ticksLeft (s.goSpd (nextSpd s)) = phaseTicks s.waitTimeoutTicks s.bitcnt.toNat (nextSpd s) := rfl
    rw [hfirst]
    unfold ticksLeft
    omega
  | samples hspd =>
    obtain ⟨hframe, -, hphase⟩ := hframe
    rw [hspd] at hphase
    obtain ⟨hbitcnt, -⟩ := sample_toNat hframe hphase
    have hfirst : ticksLeft (s.sample.goSpd .bitFall) =
        s.waitTimeoutTicks + dataTicks s.waitTimeoutTicks s.sample.bitcnt.toNat := rfl
    have hticks : spdTicks s = 29 := by simp [spdTicks, hspd]
    rw [hfirst, hbitcnt]
    simp only [ticksLeft, hspd, phaseTicks]
    omega
  | timesOut _ _ hends' | checksGood _ _ hends' | checksBad _ _ hends' =>
    rw [hends] at hends'
    cases hends'

/-! ### Every poll ends -/

/-- A state of a run in which a poll runs. -/
structure InPoll (s : State) : Prop where
  inv : Inv s
  polling : isPolling s.seq = true

theorem InPoll.spd_ne_idle {s : State} (h : InPoll s) : s.spd ≠ .idle :=
  h.inv.poll.mpr h.polling

/-- A tick of a poll ends it and returns to the caller's successor, or the poll goes on with the bound lowered. -/
theorem InPoll.step {s : State} (h : InPoll s) (hrst : s.pins.rst = false) :
    ∃ t, step s = .next t ∧
      ((t.spd = .idle ∧ t.seq = pollSuccessor s.seq) ∨ (InPoll t ∧ t.seq = s.seq ∧ ticksLeft t < ticksLeft s)) := by
  have hmove := decoderTick_move s
  cases hends : s.pollEnds with
  | true => exact ⟨_, step_polling_ends hrst h.polling hends, .inl ⟨hmove.spd_idle_iff.mpr (.inr hends), rfl⟩⟩
  | false =>
    have hstep := step_polling_goesOn hrst h.polling hends
    have hseq : s.decoderTick.seq = s.seq := decoderTick_seq s
    exact ⟨_, hstep, .inr ⟨⟨everyTickKeepsTheInvariant _ _ h.inv hstep, hseq ▸ h.polling⟩, hseq,
      hmove.ticksLeft_lt hends h.inv.timer h.inv.frame h.spd_ne_idle⟩⟩

/-- A poll ends within its bound, whatever the levels are (R127). -/
theorem InPoll.ends_within {s : State} (n : Nat) (h : InPoll s) (hn : ticksLeft s ≤ n) (hrst : NoReset n s) :
    ∃ k, k ≤ n ∧ ∃ t, runTicks k s = .next t ∧ t.spd = .idle ∧ t.seq = pollSuccessor s.seq := by
  induction n generalizing s with
  | zero =>
    have hpos := ticksLeft_pos h.inv.timer h.inv.frame h.spd_ne_idle
    omega
  | succ n ih =>
    obtain ⟨t, hstep, ⟨hspd, hseq⟩ | ⟨ht, hseq, hlt⟩⟩ := h.step (hrst 0 (Nat.succ_pos n))
    · exact ⟨1, by omega, t, runTicks_succ s t 0 hstep, hspd, hseq⟩
    · obtain ⟨k, hk, u, hrun, hend⟩ := ih ht (by omega) (noReset_step s t n hstep hrst)
      rw [hseq] at hend
      exact ⟨k + 1, by omega, u, (runTicks_succ s t k hstep).trans hrun, hend⟩

/-- At the first tick of a poll the bound is the sum R127 gives. -/
theorem ticksLeft_of_startLow {s : State} (hframe : FrameInRange s) (hspd : s.spd = .startLow) (htmr : s.tmr = 0) :
    ticksLeft s = 20000 + 20 + 83 * s.waitTimeoutTicks + 40 * 29 + 1 := by
  obtain ⟨-, -, hphase⟩ := hframe
  rw [hspd] at hphase
  have hzero : s.tmr.toNat = 0 := congrArg BitVec.toNat htmr
  simp only [ticksLeft, hspd, hzero, hphase, phaseTicks, dataTicks]
  omega

/-- Settles O58: the bound at the first tick is the sum, and a poll ends within its bound. -/
theorem everyPollEndsWithinItsBound : Obligations.EveryPollEndsWithinItsBound := by
  intro s hinv hspd htmr hrst
  have hpoll : isPolling s.seq = true := hinv.poll.mp (by simp [hspd])
  exact InPoll.ends_within _ ⟨hinv, hpoll⟩ (ticksLeft_of_startLow hinv.frame hspd htmr).le hrst

end Sys2Proof.Proofs
end

