-- ==== Sys2Proof/Proofs/ButtonNotifications.lean ====
section
/-! NOTIFY and the flags (42_input_debouncer.md R141 to R146; 60_exceptions.md R249): which flags a tick clears, and where the
buttons go through a tick unread. -/

namespace Sys2Proof.Proofs

open Sys2Proof.Machine Sys2Proof.Safety Sys2Proof.Laws

/-! ### Where the buttons are not read -/

/-- The states that test a flag or re-sample a button (R143, R144, R161). -/
def buttonStates : List SeqState :=
  [.sEntry, .cChkMode, .cChkUp, .cChkDown, .cChkOk, .cSetUp, .cSetDown, .cSetOk]

/-- The state with other flags, other previous buttons and other levels at the buttons. -/
def withButtons (p bp b : Buttons) (s : State) : State :=
  { s with pend := p, btnPrev := bp, pins := { s.pins with btn := b } }

section
variable {p bp b : Buttons}

/-- A choice that reads no button, between results that read none. -/
theorem ite_withButtons {c : Prop} [Decidable c] {s s' t t' : State} (hs : s' = withButtons p bp b s)
    (ht : t' = withButtons p bp b t) : (if c then s' else t') = withButtons p bp b (if c then s else t) := by
  rw [hs, ht, apply_ite (withButtons p bp b)]

/-- A wait reads the sensor's pin and the timer, no button. -/
theorem await_withButtons {s leave leave' : State} {level : Bool} (h : leave' = withButtons p bp b leave) :
    (withButtons p bp b s).await level leave' = withButtons p bp b (s.await level leave) :=
  ite_withButtons h (ite_withButtons rfl rfl)

theorem setAlarm_withButtons (s : State) (q : Quantity) (a : AlarmState) :
    (withButtons p bp b s).setAlarm q a = withButtons p bp b (s.setAlarm q a) := by
  cases q <;> rfl

theorem nextQuantity_withButtons (s : State) :
    (withButtons p bp b s).nextQuantity = withButtons p bp b s.nextQuantity := by
  obtain ⟨hq, h⟩ | ⟨hq, h⟩ := nextQuantity_cases s <;> rw [h, State.nextQuantity] <;> simp only [withButtons, hq]

/-- The decoder's rule reads no button (R112 to R123). -/
theorem decoderTick_withButtons (s : State) :
    (withButtons p bp b s).decoderTick = withButtons p bp b s.decoderTick := by
  have hspd : (withButtons p bp b s).spd = s.spd := rfl
  unfold State.decoderTick
  rw [hspd]
  cases s.spd with
  | idle => rfl
  | startLow | startHigh | bitDelay | check => exact ite_withButtons rfl rfl
  | ackL1 | ackH | ackL2 | bitRise | bitFall => exact await_withButtons rfl

/-- Neither does the end of a poll nor the return from it (R217). -/
theorem pollReturn_withButtons (s : State) (succ : SeqState) :
    (withButtons p bp b s).pollReturn (withButtons p bp b s).decoderTick succ =
      withButtons p bp b (s.pollReturn s.decoderTick succ) := by
  rw [decoderTick_withButtons]
  exact ite_withButtons rfl rfl

/-- Joining the decoder's rule reads no button. -/
theorem withDecoder_withButtons (s u : State) :
    (withButtons p bp b s).withDecoder (withButtons p bp b u) = withButtons p bp b (s.withDecoder u) := by
  unfold State.withDecoder
  rw [decoderTick_withButtons]
  exact ite_withButtons rfl rfl

/-- Outside the states that test a flag or re-sample a button, the sequencer's operation hands the buttons and the flags
through unread. -/
theorem exec_seq_withButtons {s : State} (h : s.seq ∉ buttonStates) :
    ∃ u, exec s.seq.instr s = .next u ∧
      exec s.seq.instr (withButtons p bp b s) = .next (withButtons p bp b u) := by
  cases hs : s.seq with
  | sEntry | cChkMode | cChkUp | cChkDown | cChkOk | cSetUp | cSetDown | cSetOk => simp [hs, buttonStates] at h
  | sShow | cDraw | aConfCount => exact ⟨_, rfl, rfl⟩
  | sGap | sEntrySettle | cDelay | cSetMode | aConfGap | aSustGap =>
    exact ⟨_, rfl, congrArg Host.Outcome.next (ite_withButtons rfl rfl)⟩
  | sPoll | aConfPoll | aSustPoll => exact ⟨_, rfl, congrArg Host.Outcome.next (pollReturn_withButtons s _)⟩
  | eGate =>
    refine ⟨_, rfl, congrArg Host.Outcome.next (ite_withButtons ?_ (nextQuantity_withButtons s))⟩
    rw [setAlarm_withButtons]
    rfl
  | aConfDecide =>
    refine ⟨_, rfl, congrArg Host.Outcome.next (ite_withButtons ?_ ?_)⟩ <;> rw [setAlarm_withButtons]
    · rfl
    · exact nextQuantity_withButtons _
  | aSustChk =>
    refine ⟨_, rfl, congrArg Host.Outcome.next (ite_withButtons rfl ?_)⟩
    rw [setAlarm_withButtons]
    exact nextQuantity_withButtons { s.setAlarm s.curQ .normal with ledAlarm := false, ledNormal := true }

end

/-- Settles O47: the operation and the decoder's rule hand the other buttons and flags through, and NOTIFY then joins the
edges to those flags. -/
theorem notificationsDoNotDisturbTheMainThread : Obligations.NotificationsDoNotDisturbTheMainThread := by
  intro s t p bp b hrst hseq hstep
  obtain ⟨u, hu, hu'⟩ := exec_seq_withButtons (p := p) (bp := bp) (b := b) hseq
  rw [step_of_rst_low s hrst, runTick_of_exec _ _ _ hu] at hstep
  obtain rfl := Host.Outcome.next.inj hstep
  have hstep' := (step_of_rst_low (withButtons p bp b s) hrst).trans (runTick_of_exec _ _ _ hu')
  rw [withDecoder_withButtons] at hstep'
  exact hstep'

/-! ### The flags a tick clears -/

/-- The flags that the operation of `seq` clears: at `S_ENTRY` the trigger's, at a `C_CHK_*` state its own (R161, R165 to
R168). -/
def clearedFlags (s : State) : Buttons :=
  match s.seq with
  | .sEntry => enterClears s.pend
  | .cChkMode => buttonMask .mode
  | .cChkUp => buttonMask .up
  | .cChkDown => buttonMask .down
  | .cChkOk => buttonMask .ok
  | _ => 0

/-- Without a trigger there is nothing for ENTER to clear (R161). -/
theorem enterClears_of_no_trigger {w : Buttons} (h : entryTrigger w = false) : enterClears w = 0 := by
  obtain ⟨hboth, hmode⟩ := Bool.or_eq_false_iff.mp h
  rw [enterClears, hmode, Bool.and_comm, hboth]
  rfl

/-- Of the flags of a word, ENTER keeps all but MODE, and but UP and DOWN where both are set (R161). -/
theorem getLsbD_and_not_enterClears (w : Buttons) {i : Nat} (hi : i < 4) :
    (w &&& ~~~enterClears w).getLsbD i =
      (w.getLsbD i && !(i == 2 || (i == 0 || i == 1) && w.getLsbD 0 && w.getLsbD 1)) := by
  revert w i
  decide

/-- The mask of a button has that button's bit alone. -/
theorem getLsbD_buttonMask (b : Button) {i : Nat} (hi : i < 4) : (buttonMask b).getLsbD i = (i == b.index) := by
  rw [buttonMask, BitVec.getLsbD_ofNat, Nat.testBit_two_pow, Bool.eq_iff_iff]
  simp only [hi, decide_true, Bool.true_and, decide_eq_true_eq, beq_iff_eq]
  exact eq_comm

/-- Clearing nothing keeps the flags. -/
theorem and_not_no_flags (w : Buttons) : w &&& ~~~(0 : Buttons) = w := by
  rw [BitVec.ofNat_eq_ofNat, BitVec.not_zero, BitVec.and_allOnes]

/-- A flag that is not set is no bit of `pend` to clear. -/
theorem and_not_buttonMask {s : State} {b : Button} (h : s.pending b = false) :
    s.pend &&& ~~~buttonMask b = s.pend := by
  refine BitVec.eq_of_getLsbD_eq fun i hi => ?_
  rw [BitVec.getLsbD_and, BitVec.getLsbD_not, getLsbD_buttonMask b hi]
  by_cases hib : i = b.index
  · rw [hib, show s.pend.getLsbD b.index = false from h, Bool.false_and]
  · simp [hib, hi]

/-- A test of a flag clears that flag, if it is set, and no other (R143). -/
theorem testFlag_pend (s : State) (b : Button) (found notFound : SeqState) :
    (s.testFlag b found notFound).pend = s.pend &&& ~~~buttonMask b := by
  obtain ⟨-, h⟩ | ⟨hclear, h⟩ := testFlag_cases s b found notFound <;> rw [h]
  · rfl
  · exact (and_not_buttonMask hclear).symm

/-- A settle state keeps the flags if its event does. -/
theorem dwell_pend {s leave : State} {n : Nat} (h : leave.pend = s.pend) : (s.dwell n leave).pend = s.pend := by
  obtain ⟨-, hd⟩ | ⟨-, hd⟩ := dwell_cases s leave n <;> rw [hd]
  · exact h
  · rfl

/-- The events of UP and DOWN write settings, no flag. -/
theorem OnlySettingsDiffer.pend {s u : State} (h : OnlySettingsDiffer s u) : u.pend = s.pend := by
  obtain ⟨_, _, _, _, _, rfl⟩ := h
  rfl

/-- An operation that reads no flag writes none: with the flags it found it goes to the state it goes to anyway. -/
theorem exec_seq_keeps_pend {s : State} (h : s.seq ∉ buttonStates) :
    ∃ u, exec s.seq.instr s = .next u ∧ u.pend = s.pend := by
  obtain ⟨u, hu, hu'⟩ := exec_seq_withButtons (p := s.pend) (bp := s.btnPrev) (b := s.pins.btn) h
  have hsame : u = withButtons s.pend s.btnPrev s.pins.btn u := Host.Outcome.next.inj (hu.symm.trans hu')
  exact ⟨u, hu, by rw [hsame]; rfl⟩

/-- Nor does such an operation clear one. -/
theorem clearedFlags_of_not_buttonState {s : State} (h : s.seq ∉ buttonStates) : clearedFlags s = 0 := by
  unfold clearedFlags
  cases hs : s.seq with
  | sEntry | cChkMode | cChkUp | cChkDown | cChkOk => simp [hs, buttonStates] at h
  | _ => rfl

/-- Every operation of `seq` clears its flags and no other, and sets none. -/
theorem exec_seq_pend (s : State) :
    ∃ u, exec s.seq.instr s = .next u ∧ u.pend = s.pend &&& ~~~clearedFlags s := by
  by_cases hbtn : s.seq ∈ buttonStates
  case neg =>
    obtain ⟨u, hu, hpend⟩ := exec_seq_keeps_pend hbtn
    exact ⟨u, hu, by rw [hpend, clearedFlags_of_not_buttonState hbtn, and_not_no_flags]⟩
  case pos =>
    unfold clearedFlags
    cases hs : s.seq with
    | sEntry =>
      refine ⟨_, rfl, ?_⟩
      split
      case isTrue => rfl
      case isFalse htrigger =>
        rw [enterClears_of_no_trigger (Bool.eq_false_of_not_eq_true htrigger), and_not_no_flags]
        rfl
    | cChkMode | cChkUp | cChkDown | cChkOk => exact ⟨_, rfl, testFlag_pend s _ _ _⟩
    | cSetUp =>
      refine ⟨_, rfl, (dwell_pend ?_).trans (and_not_no_flags _).symm⟩
      exact (upEvent_onlySettingsDiffer s).pend
    | cSetDown =>
      refine ⟨_, rfl, (dwell_pend ?_).trans (and_not_no_flags _).symm⟩
      exact (downEvent_onlySettingsDiffer s).pend
    | cSetOk =>
      refine ⟨_, rfl, (dwell_pend ?_).trans (and_not_no_flags _).symm⟩
      rw [okEvent_eq_goSeq]
      rfl
    | _ => simp [hs, buttonStates] at hbtn

/-- The flags kept, bit by bit. -/
theorem getLsbD_and_not_clearedFlags (s : State) {i : Nat} (hi : i < 4) :
    (s.pend &&& ~~~clearedFlags s).getLsbD i =
      (s.pend.getLsbD i &&
        !((s.seq == .sEntry && i == 2) ||
          (s.seq == .sEntry && (i == 0 || i == 1) && s.pend.getLsbD 0 && s.pend.getLsbD 1) ||
          (s.seq == .cChkMode && i == 2) || (s.seq == .cChkUp && i == 0) ||
          (s.seq == .cChkDown && i == 1) || (s.seq == .cChkOk && i == 3))) := by
  unfold clearedFlags
  cases s.seq with
  | sEntry =>
    rw [getLsbD_and_not_enterClears s.pend hi]
    simp [beq_eq_decide (α := SeqState)]
  | cChkMode | cChkUp | cChkDown | cChkOk =>
    rw [BitVec.getLsbD_and, BitVec.getLsbD_not, getLsbD_buttonMask _ hi]
    simp [beq_eq_decide (α := SeqState), hi, Button.index]
  | _ =>
    rw [and_not_no_flags]
    simp [beq_eq_decide (α := SeqState)]

/-- Settles O46: the tick's `pend` is the edges joined with what the operation keeps of the flags; the decoder's rule writes
neither. -/
theorem pendingFlagsAndEdges : Obligations.PendingFlagsAndEdges := by
  intro s hrst
  obtain ⟨u, hu, hpend⟩ := exec_seq_pend s
  refine ⟨_, (step_of_rst_low s hrst).trans (runTick_of_exec _ _ _ hu), rfl, fun i hi => ?_⟩
  have hkeep : (s.withDecoder u).pend = u.pend := withDecoder_keeps (f := State.pend) (fun _ _ _ _ _ _ _ _ _ => rfl) s u
  rw [State.passTime_pend, State.notify_pend, hkeep, hpend, BitVec.getLsbD_or, getLsbD_and_not_clearedFlags s hi]
  simp [State.edges, hi]

end Sys2Proof.Proofs
end

