-- ==== Sys2Proof/Proofs/EventOperations.lean ====
section
/-! The operations a button event selects, each run alone (43_threshold_config_fsm.md R169 to R183): a tap selects a bound, a
held UP or DOWN steps one threshold under its guard, MODE flips the quantity, OK is a transfer. -/

namespace Sys2Proof.Proofs

open Sys2Proof.Machine Sys2Proof.Safety Sys2Proof.Laws

/-! ### The words that select them (R87) -/

/-- The quantity that a bit names has that bit as its code (R90). -/
@[simp] theorem quantity_code_ofCode (q : Bool) : (Quantity.ofCode q).code = q := by
  cases q <;> rfl

/-- The bound that a bit names has that bit as its code (R90). -/
@[simp] theorem bound_code_ofCode (b : Bool) : (Bound.ofCode b).code = b := by
  cases b <;> rfl

/-- An event word written out in bits decodes to the operation of that word. -/
theorem decode_eventBits {id : BitVec 2} {held q b : Bool} {i : Instr}
    (h : decodeEvt (evtWord id held (Quantity.ofCode q) (Bound.ofCode b)) = i) :
    decode (.evt5 (id ++ BitVec.ofBool held ++ BitVec.ofBool q ++ BitVec.ofBool b)) = .ok i := by
  rw [evtWord, quantity_code_ofCode, bound_code_ofCode] at h
  exact congrArg Except.ok h

/-! ### Taps (R181, R182) -/

/-- Settles O32: the words `000qb` and `010qb` are those of a tapped UP and a tapped DOWN. -/
theorem tapSelectsTheBound : Obligations.TapSelectsTheBound :=
  ⟨fun _ _ => decode_eventBits (id := 0) (held := false) (decodeEvt_up_tap _ _),
    fun _ _ => decode_eventBits (id := 1) (held := false) (decodeEvt_down_tap _ _),
    fun _ _ _ => ⟨rfl, rfl⟩⟩

/-! ### Steps (R171 to R178) -/

/-- A number that fits a threshold is stored as it is. -/
theorem toNat_ofNat_byte {n : Nat} (h : n < 256) : (BitVec.ofNat 8 n : Byte).toNat = n :=
  Nat.mod_eq_of_lt h

/-- A threshold lowered by no more than it holds does not wrap. -/
theorem toNat_ofNat_sub_add {v : Byte} {k : Nat} (h : k ≤ v.toNat) : (BitVec.ofNat 8 (v.toNat - k)).toNat + k = v.toNat := by
  have hv := v.isLt
  rw [toNat_ofNat_byte (by omega), Nat.sub_add_cancel h]

/-- Settles O33: each operation is one guarded write, whose sum the guard keeps within a byte. -/
theorem incrementsStepUnderTheirGuards : Obligations.IncrementsStepUnderTheirGuards := by
  refine ⟨rfl, rfl, rfl, rfl, fun _ => ?_⟩
  exact ⟨fun hbelow => ⟨_, toNat_ofNat_byte (by omega), congrArg _ (if_pos hbelow)⟩,
    fun hcap => congrArg _ (if_neg (Nat.not_lt.mpr hcap)),
    fun hbelow => ⟨_, toNat_ofNat_byte (by omega), congrArg _ (if_pos hbelow)⟩,
    fun hmet => congrArg _ (if_neg (Nat.not_lt.mpr hmet)),
    fun hfits => ⟨_, toNat_ofNat_byte (by omega), congrArg _ (if_pos hfits)⟩,
    fun hcap => congrArg _ (if_neg (Nat.not_le.mpr hcap)),
    fun hhigh hcap => ⟨_, toNat_ofNat_byte (by omega), congrArg _ (if_pos ⟨hhigh, hcap⟩)⟩,
    fun hguard => congrArg _ (if_neg hguard)⟩

/-- Settles O34: each operation is one guarded write, whose guard leaves at least the step to take away. -/
theorem decrementsStepUnderTheirGuards : Obligations.DecrementsStepUnderTheirGuards :=
  ⟨rfl, rfl, rfl, rfl, fun _ =>
    ⟨fun habove => ⟨_, toNat_ofNat_sub_add (by omega), congrArg _ (if_pos habove)⟩,
      fun hmet => congrArg _ (if_neg (Nat.not_lt.mpr hmet)),
      fun habove => ⟨_, toNat_ofNat_sub_add habove, congrArg _ (if_pos habove)⟩,
      fun hfloor => congrArg _ (if_neg hfloor.not_gt),
      fun hlow hfloor => ⟨_, toNat_ofNat_sub_add (by omega), congrArg _ (if_pos ⟨hlow, hfloor⟩)⟩,
      fun hguard => congrArg _ (if_neg hguard),
      fun hfloor => ⟨_, toNat_ofNat_sub_add (by omega), congrArg _ (if_pos hfloor)⟩,
      fun hbelow => congrArg _ (if_neg (Nat.not_le.mpr hbelow))⟩⟩

/-! ### MODE, UP and DOWN -/

/-- TOGGLE selects the other quantity (R169). -/
theorem evtToggle_eq (s : State) : evtToggle s = { s with selQ := otherQuantity s.selQ } := by
  unfold evtToggle
  cases s.selQ <;> rfl

/-- The operation that an event's word decodes to does what the event does. -/
theorem exec_of_eventWord {s v : State} {b : Button} {held : Bool} {q : Quantity} {bnd : Bound} {i : Instr}
    (hexec : exec (decodeEvt (s.eventWord b)) s = .next v) (hheld : s.held b = held) (hq : s.selQ = q) (hb : s.selB = bnd)
    (hi : decodeEvt (evtWord (BitVec.ofNat 2 b.index) held q bnd) = i) : exec i s = .next v := by
  subst hheld hq hb hi
  exact hexec

end Sys2Proof.Proofs
end

