-- ==== Sys2Proof/Proofs/ConfigurationStates.lean ====
section
/-! The sequencer's states of the configuration (43_threshold_config_fsm.md R160 to R186): entry, the iteration MODE, UP, DOWN, OK
with its settle delays, and what a tick in any of them leaves alone. -/

namespace Sys2Proof.Proofs

open Sys2Proof.Machine Sys2Proof.Safety Sys2Proof.Laws

/-! ### Entry (R161, R162) -/

/-- S_ENTRY by the two triggers: `both` UP and DOWN, and `mode`. -/
theorem exec_sEntry_of_flags {s : State} {both mode : Bool} (hboth : (s.pend.getLsbD 1 && s.pend.getLsbD 0) = both)
    (hmode : s.pend.getLsbD 2 = mode) :
    exec .sEntry s = .next
      (if both || mode then
        { s with pend := s.pend &&& ~~~pendWord false mode both both, seq := .sEntrySettle, tmr := 0 }
      else { s with seq := .eGate, tmr := 0 }) := by
  have htrigger : entryTrigger s.pend = (both || mode) := by rw [entryTrigger, Bool.and_comm, hboth, hmode]
  have hclears : ~~~enterClears s.pend = ~~~pendWord false mode both both := by rw [enterClears, hboth, hmode]
  rw [← htrigger, ← enter_of_keeps hclears]
  rfl

/-- Settles O22: the four cases of the two triggers, each with its mask. -/
theorem entryClearsTheTriggersFlags : Obligations.EntryClearsTheTriggersFlags := by
  refine ⟨decode_seq .sEntry, fun s => ?_⟩
  have hset (hup : s.pend.getLsbD 0 = true) (hdown : s.pend.getLsbD 1 = true) :
      (s.pend.getLsbD 1 && s.pend.getLsbD 0) = true := Bool.and_eq_true_iff.mpr ⟨hdown, hup⟩
  have hunset (h : ¬(s.pend.getLsbD 0 = true ∧ s.pend.getLsbD 1 = true)) :
      (s.pend.getLsbD 1 && s.pend.getLsbD 0) = false :=
    Bool.eq_false_of_not_eq_true fun hboth => h (Bool.and_eq_true_iff.mp hboth).symm
  exact ⟨fun hup hdown hmode => exec_sEntry_of_flags (hset hup hdown) hmode,
    fun hup hdown hmode => exec_sEntry_of_flags (hset hup hdown) hmode,
    fun hnot hmode => exec_sEntry_of_flags (hunset hnot) hmode,
    fun hnot hmode => exec_sEntry_of_flags (hunset hnot) hmode⟩

/-- Settles O24: a dwell whose exit selects Temperature, High. -/
theorem entrySettlesToTemperatureHigh : Obligations.EntrySettlesToTemperatureHigh :=
  ⟨decode_seq .sEntrySettle, fun s => dwell_dwellsFor s _ 1000000⟩

/-! ### Display, refresh delay and checks (R163 to R168) -/

/-- Settles O25: the screen shows the threshold that the selection names. -/
theorem drawRequestsTheSelection : Obligations.DrawRequestsTheSelection := by
  refine ⟨decode_seq .cDraw, fun s => ⟨rfl, fun hseq => ?_⟩⟩
  have hdisp {q : Quantity} {b : Bound} (hq : s.selQ = q) (hb : s.selB = b) :
      s.outputs.disp = ⟨true, .config, q, b, s.threshold q b, 0⟩ := hq ▸ hb ▸ display_cDraw hseq
  exact ⟨hdisp, hdisp, hdisp, hdisp⟩

/-- Settles O26: a dwell whose exit is C_CHK_MODE. -/
theorem refreshDelayThenChecks : Obligations.RefreshDelayThenChecks :=
  ⟨decode_seq .cDelay, fun s => dwell_dwellsFor s _ 200000⟩

/-- A test of a flag is told by the flags it keeps. -/
theorem testFlag_of_keeps {b : Button} {keeps : Buttons} (h : ~~~buttonMask b = keeps) (s : State) (found notFound : SeqState) :
    s.testFlag b found notFound =
      if s.pend.getLsbD b.index then { s with pend := s.pend &&& keeps, seq := found, tmr := 0 }
      else { s with seq := notFound, tmr := 0 } := by
  rw [← h]
  rfl

/-- Settles O27: the four tests, each with the mask of its button. -/
theorem checksConsumeOneFlagEach : Obligations.ChecksConsumeOneFlagEach :=
  ⟨decode_seq .cChkMode, decode_seq .cChkUp, decode_seq .cChkDown, decode_seq .cChkOk, fun s =>
    ⟨congrArg Host.Outcome.next (testFlag_of_keeps (b := .mode) rfl s _ _),
      congrArg Host.Outcome.next (testFlag_of_keeps (b := .up) rfl s _ _),
      congrArg Host.Outcome.next (testFlag_of_keeps (b := .down) rfl s _ _),
      congrArg Host.Outcome.next (testFlag_of_keeps (b := .ok) rfl s _ _)⟩⟩

/-! ### The settle delays with their events (R169, R170, R179, R183) -/

/-- Settles O28: a dwell whose exit is TOGGLE with the transition to C_CHK_UP. -/
theorem toggleFlipsTheQuantity : Obligations.ToggleFlipsTheQuantity := by
  refine ⟨decode_seq .cSetMode, fun _ _ _ => decode_eventBits (id := 2) (decodeEvt_mode _ _ _), fun s held q b => ?_⟩
  have hdwell : DwellsFor 1000000 s (exec .cSetMode s) ((evtToggle s).goSeq .cChkUp) := dwell_dwellsFor s _ 1000000
  rw [evtToggle_eq] at hdwell
  exact ⟨congrArg _ (evtToggle_eq s), hdwell⟩

/-- Settles O29: the exit is the UP event, which is the operation its word selects. -/
theorem upEventSelectsOrIncrements : Obligations.UpEventSelectsOrIncrements :=
  ⟨decode_seq .cSetUp, fun s =>
    have hevent := exec_decodeEvt_up s
    ⟨upEvent s, fun htap => exec_of_eventWord hevent htap rfl rfl (decodeEvt_up_tap _ _),
      fun hheld hq hb => exec_of_eventWord hevent hheld hq hb rfl,
      fun hheld hq hb => exec_of_eventWord hevent hheld hq hb rfl,
      fun hheld hq hb => exec_of_eventWord hevent hheld hq hb rfl,
      fun hheld hq hb => exec_of_eventWord hevent hheld hq hb rfl, dwell_dwellsFor s _ 1000000⟩⟩

/-- Settles O30: the exit is the DOWN event, which is the operation its word selects. -/
theorem downEventSelectsOrDecrements : Obligations.DownEventSelectsOrDecrements :=
  ⟨decode_seq .cSetDown, fun s =>
    have hevent := exec_decodeEvt_down s
    ⟨downEvent s, fun htap => exec_of_eventWord hevent htap rfl rfl (decodeEvt_down_tap _ _),
      fun hheld hq hb => exec_of_eventWord hevent hheld hq hb rfl,
      fun hheld hq hb => exec_of_eventWord hevent hheld hq hb rfl,
      fun hheld hq hb => exec_of_eventWord hevent hheld hq hb rfl,
      fun hheld hq hb => exec_of_eventWord hevent hheld hq hb rfl, dwell_dwellsFor s _ 1000000⟩⟩

/-- Settles O31: a dwell whose exit is the OK event, a transfer alone. -/
theorem okEventLeavesOnlyWhenHeld : Obligations.OkEventLeavesOnlyWhenHeld := by
  refine ⟨decode_seq .cSetOk, fun _ _ => decode_eventBits (id := 3) (held := true) (decodeEvt_ok_held _ _),
    fun _ _ => decode_eventBits (id := 3) (held := false) (decodeEvt_ok_tap _ _), fun s q b => ⟨rfl, rfl, ?_⟩⟩
  have hdwell : DwellsFor 1000000 s (exec .cSetOk s) (okEvent s) := dwell_dwellsFor s _ 1000000
  rw [okEvent_eq_goSeq] at hdwell
  exact hdwell

/-! ### What configuring leaves alone (R160, R183, R186) -/

/-- The settle delay before the iteration, or a state of the iteration. -/
def InConfiguration (q : SeqState) : Prop :=
  isConfiguring q = true ∨ q = .sEntrySettle

/-- No poll is started from the configuration. -/
theorem not_inConfiguration_of_pollTransition : ∀ r ∈ pollTransitions, ¬InConfiguration r.1 := by
  unfold InConfiguration
  decide

/-- The configuration is outside a poll. -/
theorem isPolling_of_inConfiguration {q : SeqState} (h : InConfiguration q) : isPolling q = false := by
  obtain h | rfl := h
  · revert h
    cases q <;> decide
  · rfl

/-- `u` has the decoder, the reading, the alarms and the indicators of `s`. -/
structure SameMonitoring (s u : State) : Prop where
  spd : u.spd = s.spd
  frame : u.frame = s.frame
  reading : SameReading s u
  alarmT : u.alarmT = s.alarmT
  alarmH : u.alarmH = s.alarmH
  ledAlarm : u.ledAlarm = s.ledAlarm
  ledNormal : u.ledNormal = s.ledNormal

/-- A move in the configuration counts on or passes to another state, and neither touches the monitoring. -/
theorem SeqMove.of_inConfiguration {s u : State} (h : SeqMove s u) (hs : InConfiguration s.seq) :
    SameMonitoring s u ∧ (u.seq = s.seq ∨ (s.seq, u.seq) ∈ plainTransitions) := by
  cases h with
  | counts => exact ⟨⟨rfl, rfl, ⟨rfl, rfl, rfl, rfl⟩, rfl, rfl, rfl, rfl⟩, .inl rfl⟩
  | passes hq => exact ⟨⟨rfl, rfl, ⟨rfl, rfl, rfl, rfl⟩, rfl, rfl, rfl, rfl⟩, .inr hq⟩
  | startsPoll hq => exact absurd hs (not_inConfiguration_of_pollTransition _ hq)
  | polls hseq => exact absurd hseq (ne_true_of_eq_false (isPolling_of_inConfiguration hs))
  | returns hq =>
    exact absurd (isPolling_of_pollReturn _ hq).1 (ne_true_of_eq_false (isPolling_of_inConfiguration hs))
  | gateOpens hseq | gateStays hseq | judges hseq | confirms hseq | dismisses hseq | sustains hseq | recovers hseq =>
    simp [hseq, InConfiguration, isConfiguring, SeqState.code] at hs

/-- Of the transitions of the main loop and the configuration, only C_SET_OK's to E_GATE leaves the iteration. -/
theorem exit_of_plainTransition :
    ∀ r ∈ plainTransitions, isConfiguring r.1 = true → isConfiguring r.2 = false → r = (.cSetOk, .eGate) := by
  decide

/-- C_SET_OK goes to E_GATE only at its last tick, on an OK found held (R183). -/
theorem exec_cSetOk_exit {s u : State} (hexec : exec .cSetOk s = .next u) (hs : s.seq = .cSetOk) (hu : u.seq = .eGate) :
    s.tmr.toNat = 999999 ∧ s.held .ok = true := by
  obtain rfl : s.dwell tSettle (okEvent s) = u := Host.Outcome.next.inj hexec
  obtain ⟨hlast, h⟩ | ⟨-, h⟩ := dwell_cases s (okEvent s) tSettle <;> rw [h] at hu
  · refine ⟨hlast, Bool.of_not_eq_false fun htap => ?_⟩
    simp [okEvent_eq_goSeq, htap] at hu
  · rw [State.countTick_seq, hs] at hu
    cases hu

/-- Settles O51: a tick in the configuration is a move that touches no monitoring, with nothing joined; a move that leaves is
C_SET_OK's. -/
theorem configuringBlocksAndLeavesOnlyByExit : Obligations.ConfiguringBlocksAndLeavesOnlyByExit := by
  intro s t hrst hpoll hs hstep
  obtain ⟨u, hexec, hmove⟩ := exec_seq_move s
  rw [step_of_rst_low s hrst, runTick_of_exec _ _ _ hexec, withDecoder_of_pollConsistent _ _ hpoll] at hstep
  obtain rfl := Host.Outcome.next.inj hstep
  have hidle := spd_idle_of_pollConsistent hpoll (isPolling_of_inConfiguration hs)
  obtain ⟨⟨hspd, hframe, ⟨hhum, htemp, hvalid, herr⟩, halarmT, halarmH, hledAlarm, hledNormal⟩, hnext⟩ :=
    hmove.of_inConfiguration hs
  refine ⟨hspd.trans hidle, hframe, hhum, htemp, hvalid, herr, halarmT, halarmH, hledAlarm, hledNormal, fun hin hout => ?_⟩
  obtain ⟨hseq, hgate⟩ : s.seq = .cSetOk ∧ u.seq = .eGate := by
    obtain hstays | hpasses := hnext
    · exact absurd (hstays ▸ hin) (ne_true_of_eq_false hout)
    · exact Prod.mk.inj (exit_of_plainTransition _ hpasses hin hout)
  rw [hseq] at hexec
  obtain ⟨hlast, hheld⟩ := exec_cSetOk_exit hexec hseq hgate
  exact ⟨hseq, hlast, hheld, hgate⟩

end Sys2Proof.Proofs
end

