-- ==== Sys2Proof/Proofs/AlarmEvaluator.lean ====
section
/-! The alarm evaluator (44_alarm_evaluator.md R190 to R202): the polling states, the range test, the operations of the gate and
of the two phases with one equation for each of their outcomes, and how the sustained phase is left. -/

namespace Sys2Proof.Proofs

open Sys2Proof.Machine Sys2Proof.Safety Sys2Proof.Laws

/-! ### What joining the decoder's rule leaves alone -/

@[simp] theorem withDecoder_seq (s u : State) : (s.withDecoder u).seq = u.seq :=
  withDecoder_keeps (f := State.seq) (fun _ _ _ _ _ _ _ _ _ => rfl) s u

@[simp] theorem withDecoder_ledAlarm (s u : State) : (s.withDecoder u).ledAlarm = u.ledAlarm :=
  withDecoder_keeps (f := State.ledAlarm) (fun _ _ _ _ _ _ _ _ _ => rfl) s u

@[simp] theorem withDecoder_ledNormal (s u : State) : (s.withDecoder u).ledNormal = u.ledNormal :=
  withDecoder_keeps (f := State.ledNormal) (fun _ _ _ _ _ _ _ _ _ => rfl) s u

@[simp] theorem withDecoder_alarm (s u : State) (q : Quantity) : (s.withDecoder u).alarm q = u.alarm q :=
  withDecoder_keeps (ignoresDecoder_alarm q) s u

/-! ### How the sustained phase is left (R202, R258) -/

/-- What A_SUST_CHK does on a reading in range: the alarm under evaluation is over and the indicators say so (R199). -/
structure Recovered (s u : State) : Prop where
  seq : s.seq = .aSustChk
  inRange : s.oor s.curQ = false
  alarm : u.alarm s.curQ = .normal
  ledAlarm : u.ledAlarm = false
  ledNormal : u.ledNormal = true

/-- A move from a state of the sustained phase stays in the phase or recovers. -/
theorem SeqMove.of_sustained {s u : State} (h : SeqMove s u) (hs : isSustained s.seq = true) :
    isSustained u.seq = true ∨ Recovered s u := by
  have within {q : SeqState} (hphase : SamePhase s.seq q) : isSustained q = true := by
    obtain ⟨-, hsust, -⟩ := hphase
    exact hsust.trans hs
  cases h with
  | counts => exact .inl hs
  | passes hq => exact .inl (within (samePhase_of_plain _ hq))
  | startsPoll hq => exact .inl (within (samePhase_of_pollTransition _ hq))
  | polls => exact .inl ((decoderTick_seq s).symm ▸ hs)
  | returns hq => exact .inl (within (samePhase_of_pollReturn _ hq))
  | sustains => exact .inl rfl
  | recovers hseq hoor =>
    exact .inr ⟨hseq, hoor, (alarm_nextQuantity _ _).trans (State.alarm_setAlarm s _ _), by simp, by simp⟩
  | gateOpens hseq | gateStays hseq | judges hseq | confirms hseq | dismisses hseq => rw [hseq] at hs; cases hs

/-- Settles O53: the tick is a move of the sequencer, and what a decoder may join to it is neither `seq`, the alarms nor the
indicators. -/
theorem sustainedIsLeftOnlyInRange : Obligations.SustainedIsLeftOnlyInRange := by
  intro s t hrst hs h
  obtain ⟨u, hmove, rfl⟩ := step_move hrst h
  obtain hstays | ⟨hseq, hoor, halarm, hled, hnormal⟩ := hmove.of_sustained hs
  · exact .inl ((withDecoder_seq s u).symm ▸ hstays)
  · exact .inr ⟨hseq, hoor, (withDecoder_alarm s u _).trans halarm, (withDecoder_ledAlarm s u).trans hled,
      (withDecoder_ledNormal s u).trans hnormal⟩

/-! ### The polling states (R194, R198, R217, R218) -/

/-- The tick a poll ends, by the decoder's states (R217): CHECK, or a wait on the wrong level at its last tick. -/
theorem pollEnds_iff (s : State) :
    s.pollEnds = true ↔ s.spd = .check ∨
      ((s.spd = .ackL1 ∨ s.spd = .ackL2 ∨ s.spd = .bitFall) ∧ s.pins.dqIn = true ∧ s.tmr.toNat = s.waitTimeoutTicks - 1) ∨
      ((s.spd = .ackH ∨ s.spd = .bitRise) ∧ s.pins.dqIn = false ∧ s.tmr.toNat = s.waitTimeoutTicks - 1) := by
  rw [← tmr_eq_waitLast]
  cases hspd : s.spd with
  | check => simp [State.pollEnds, hspd]
  | ackL1 | ackL2 | bitFall => simp [pollEnds_of_awaiting s (level := false) (by rw [hspd]; rfl)]
  | ackH | bitRise => simp [pollEnds_of_awaiting s (level := true) (by rw [hspd]; rfl)]
  | idle | startLow | startHigh | bitDelay => simp [pollEnds_of_not_awaiting s (by rw [hspd]; rfl) (by simp [hspd])]

/-- Settles O9: each of the three is the decoder's rule with the return to its own successor, made at the tick the poll ends. -/
theorem pollingStatesRunTheDecoder : Obligations.PollingStatesRunTheDecoder := by
  refine ⟨decode_seq .sPoll, decode_seq .aConfPoll, decode_seq .aSustPoll, fun s => ?_⟩
  have returns (succ : SeqState) (hends : s.pollEnds = true) : s.pollReturn s.decoderTick succ = s.decoderTick.goSeq succ :=
    if_pos hends
  have goesOn (succ : SeqState) (hends : ¬s.pollEnds = true) : s.pollReturn s.decoderTick succ = s.decoderTick :=
    if_neg hends
  refine ⟨s.spd.instr, s.decoderTick, decode_spd s.spd, exec_spd s, ?_⟩
  rw [← pollEnds_iff]
  exact ⟨fun hends => congrArg _ (returns .sShow hends), fun hends => congrArg _ (returns .aConfCount hends),
    fun hends => congrArg _ (returns .aSustChk hends),
    fun hends => ⟨congrArg _ (goesOn .sShow hends), congrArg _ (goesOn .aConfCount hends),
      congrArg _ (goesOn .aSustChk hends)⟩⟩

/-! ### The range test (R190) -/

/-- Out of range is below the low threshold or above the high one, unsigned. -/
theorem oor_iff (s : State) (q : Quantity) :
    s.oor q = true ↔
      (s.reading q).toNat < (s.threshold q .low).toNat ∨ (s.threshold q .high).toNat < (s.reading q).toNat := by
  simp [State.oor]

/-- Settles O35: the range test on each quantity's reading and thresholds. -/
theorem outOfRangeIsStrictlyOutside : Obligations.OutOfRangeIsStrictlyOutside := fun s =>
  ⟨oor_iff s .temperature, oor_iff s .humidity⟩

/-! ### NEXT (R192) -/

/-- Where NEXT leaves the block once `q` is evaluated: at humidity's gate after temperature, in S_GAP after humidity. -/
def evaluated (q : Quantity) (s : State) : State :=
  { s with curQ := otherQuantity q, seq := if q = .temperature then .eGate else .sGap, tmr := 0 }

/-- NEXT by the quantity under evaluation. -/
theorem nextQuantity_of_curQ {s : State} {q : Quantity} (hq : s.curQ = q) : s.nextQuantity = evaluated q s := by
  unfold State.nextQuantity
  rw [hq]
  cases q <;> rfl

/-! ### The gate (R193) -/

/-- On a valid reading out of range the gate opens the confirmation phase, with a poll. -/
theorem exec_eGate_opens {s : State} {q : Quantity} (hvalid : s.valid = true) (hoor : s.oor s.curQ = true)
    (hq : s.curQ = q) :
    exec .eGate s = .next (State.startPoll { s.setAlarm q .confirming with oorCnt := 0, sampIdx := 0 } .aConfPoll) := by
  subst hq
  exact congrArg _ (if_pos (Bool.and_eq_true_iff.mpr ⟨hvalid, hoor⟩))

/-- On any other reading the gate is NEXT. -/
theorem exec_eGate_stays {s : State} {q : Quantity} (h : ¬(s.valid = true ∧ s.oor s.curQ = true)) (hq : s.curQ = q) :
    exec .eGate s = .next (evaluated q s) :=
  congrArg _ ((if_neg (mt Bool.and_eq_true_iff.mp h)).trans (nextQuantity_of_curQ hq))

/-- Settles O36: the gate's two outcomes, for each quantity. -/
theorem gateOpensOnAValidOutOfRangeReading : Obligations.GateOpensOnAValidOutOfRangeReading :=
  ⟨decode_seq .eGate, fun _ => ⟨exec_eGate_opens, exec_eGate_opens, exec_eGate_stays, exec_eGate_stays⟩⟩

/-! ### Confirmation (R195 to R197) -/

/-- Settles O37: the two counts are successors where two bits hold them, and the judgement is the range test. -/
theorem confirmationCountsThreeSamples : Obligations.ConfirmationCountsThreeSamples := by
  refine ⟨decode_seq .aConfCount, fun s => ?_⟩
  refine ⟨if s.oor s.curQ then nextCount s.oorCnt else s.oorCnt, nextCount s.sampIdx, ?samples, ?outside, ?inside, rfl⟩
  case samples => exact fun hlt => nextCount_toNat _ (by omega)
  case outside =>
    intro hoor hlt
    rw [if_pos hoor, nextCount_toNat _ (by omega)]
  case inside => exact fun hoor => if_neg (ne_true_of_eq_false hoor)

/-- Settles O38: two dwells whose exits start a poll. -/
theorem evaluatorGapsThenPoll : Obligations.EvaluatorGapsThenPoll :=
  ⟨decode_seq .aConfGap, decode_seq .aSustGap, fun s => ⟨dwell_dwellsFor s _ 200000, dwell_dwellsFor s _ 300000⟩⟩

/-- Three of three samples open the sustained phase, with a poll. -/
theorem exec_aConfDecide_sustains {s : State} {q : Quantity} (hcnt : s.oorCnt.toNat = 3) (hq : s.curQ = q) :
    exec .aConfDecide s = .next (State.startPoll { s.setAlarm q .sustained with ledNormal := false } .aSustPoll) := by
  subst hq
  exact congrArg _ (if_pos hcnt)

/-- Fewer dismiss the alarm, and NEXT follows. -/
theorem exec_aConfDecide_dismisses {s : State} {q : Quantity} (hcnt : s.oorCnt.toNat ≠ 3) (hq : s.curQ = q) :
    exec .aConfDecide s = .next (evaluated q (s.setAlarm q .normal)) := by
  subst hq
  exact congrArg _ ((if_neg hcnt).trans (nextQuantity_of_curQ (State.setAlarm_curQ ..)))

/-- Settles O39: the decision's two outcomes, for each quantity. -/
theorem threeOfThreeSustains : Obligations.ThreeOfThreeSustains :=
  ⟨decode_seq .aConfDecide, fun _ =>
    ⟨exec_aConfDecide_sustains, exec_aConfDecide_sustains, exec_aConfDecide_dismisses, exec_aConfDecide_dismisses⟩⟩

/-! ### The sustained alarm (R199) -/

/-- Back in range the alarm is over, and NEXT follows. -/
theorem exec_aSustChk_recovers {s : State} {q : Quantity} (hoor : s.oor s.curQ = false) (hq : s.curQ = q) :
    exec .aSustChk s = .next (evaluated q { s.setAlarm q .normal with ledAlarm := false, ledNormal := true }) := by
  subst hq
  refine (congrArg _ (if_neg (ne_true_of_eq_false hoor))).trans (congrArg _ (nextQuantity_of_curQ ?_))
  exact State.setAlarm_curQ s _ _

/-- Settles O40: the check's two outcomes, for each quantity, and the ALARM screen with the offending value. -/
theorem sustainedTogglesUntilInRange : Obligations.SustainedTogglesUntilInRange := by
  refine ⟨decode_seq .aSustChk, fun s =>
    ⟨fun hoor => congrArg _ (if_pos hoor), exec_aSustChk_recovers, exec_aSustChk_recovers, fun hseq hoor => ?_⟩⟩
  have hvalue : s.reading s.curQ = if s.curQ = .temperature then s.temp else s.hum := by cases s.curQ <;> rfl
  exact hvalue ▸ display_aSustChk hseq hoor

end Sys2Proof.Proofs
end

