-- ==== Sys2Proof/Proofs/MainLoop.lean ====
section
/-! The main loop (45_main_sequencer.md R216 to R220): the gap before a poll, the reading's screen, and the four ticks from it
back to the gap when there is nothing to configure and nothing to confirm. -/

namespace Sys2Proof.Proofs

open Sys2Proof.Machine Sys2Proof.Safety Sys2Proof.Laws

/-! ### The gap and the reading's screen (R216, R219) -/

/-- Settles O20: a dwell whose exit starts a poll, in the state reset gives. -/
theorem gapThenPoll : Obligations.GapThenPoll :=
  ⟨decode_seq .sGap, rfl, rfl, fun s => dwell_dwellsFor s _ s.loopGapTicks⟩

/-- After a poll that failed `S_SHOW` asks for no screen (R92, R219). -/
theorem display_sShow_of_err {s : State} (hseq : s.seq = .sShow) (herr : s.err ≠ .none) : s.display = .idle :=
  display_idle (fun ⟨_, hnone⟩ => herr hnone) (by simp [hseq]) (by simp [hseq])

/-- Settles O21: one transfer, with the request of a good poll alone. -/
theorem showRequestsTheReading : Obligations.ShowRequestsTheReading :=
  ⟨decode_seq .sShow, fun _ =>
    ⟨rfl, display_sShow, fun hseq herr => congrArg Display.stb (display_sShow_of_err hseq herr)⟩⟩

/-! ### A reading that opens no confirmation (R193) -/

/-- The gate of `q` does not open. -/
def Calm (s : State) (q : Quantity) : Prop :=
  ¬(s.valid = true ∧ s.oor q = true)

/-- The gate reads `valid`, the two stored values and the thresholds, nothing else (R190). -/
theorem Calm.congr {s u : State} {q : Quantity} (h : Calm s q) (hreading : SameReading s u)
    (hthreshold : ∀ q b, u.threshold q b = s.threshold q b) : Calm u q := by
  obtain ⟨hhum, htemp, hvalid, -⟩ := hreading
  have hvalue : u.reading q = s.reading q := by rw [reading_eq, reading_eq, hhum, htemp]
  unfold Calm State.oor
  rw [hvalid, hvalue, hthreshold, hthreshold]
  exact h

/-- With no reading made, or both quantities in range, neither gate opens. -/
theorem calm_of_quiet {s : State} (h : s.valid = false ∨ (s.oor .temperature = false ∧ s.oor .humidity = false))
    (q : Quantity) : Calm s q := by
  rintro ⟨hvalid, hoor⟩
  obtain hnone | ⟨htemp, hhum⟩ := h
  · simp [hnone] at hvalid
  · cases q
    case temperature => simp [htemp] at hoor
    case humidity => simp [hhum] at hoor

/-! ### The quiet end of a pass (R220) -/

/-- A transfer to `r` with `q` as the quantity under evaluation. -/
def passTo (r : SeqState) (q : Quantity) (s : State) : State :=
  { s with curQ := q, seq := r, tmr := 0 }

/-- `k` ticks from `s` the block is in `r` with `q` under evaluation, no poll runs, and what the gates read and the pass shows
is as it was in `s`. -/
structure PassAt (s : State) (k : Nat) (r : SeqState) (q : Quantity) (t : State) : Prop where
  run : runTicks k s = .next t
  seq : t.seq = r
  curQ : t.curQ = q
  idle : t.spd = .idle
  monitoring : SameMonitoring s t
  threshold : ∀ q b, t.threshold q b = s.threshold q b

section

variable {s t : State} {k : Nat} {r : SeqState} {q : Quantity} (h : PassAt s k r q t)

include h

/-- A gate that does not open stays so. -/
theorem PassAt.calm {p : Quantity} (hcalm : Calm s p) : Calm t p :=
  hcalm.congr h.monitoring.reading h.threshold

/-- One tick whose operation is a transfer: nothing is joined, and `pend` takes the tick's edges (R142, R222). -/
theorem PassAt.tick {r' : SeqState} {q' : Quantity} (hrst : NoReset (k + 1) s)
    (hexec : exec r.instr t = .next (passTo r' q' t)) :
    ∃ u, PassAt s (k + 1) r' q' u ∧ u.tmr = 0 ∧ u.pend = t.edges ||| t.pend := by
  obtain ⟨hrun, rfl, -, hidle, ⟨hspd, hframe, ⟨hhum, htemp, hvalid, herr⟩, halarmT, halarmH, hledAlarm, hledNormal⟩,
    hthreshold⟩ := h
  have hlow := rst_low_of_runTicks hrst hrun (Nat.lt_succ_self k)
  have hjoin : t.withDecoder (passTo r' q' t) = passTo r' q' t := if_pos (.inl hidle)
  have hstep := (step_of_rst_low t hlow).trans (runTick_of_exec _ _ _ hexec)
  rw [hjoin] at hstep
  exact ⟨_, ⟨runTicks_snoc k s t _ hrun hstep, rfl, rfl, hidle,
    ⟨hspd, hframe, ⟨hhum, htemp, hvalid, herr⟩, halarmT, halarmH, hledAlarm, hledNormal⟩,
    hthreshold⟩, rfl, rfl⟩

end

/-- A transfer of the main loop keeps the quantity under evaluation. -/
theorem goSeq_eq_passTo {s : State} {q : Quantity} (hq : s.curQ = q) (r : SeqState) : s.goSeq r = passTo r q s := by
  subst hq
  rfl

/-- S_SHOW goes on to S_ENTRY (R219). -/
theorem exec_sShow {s : State} {q : Quantity} (hq : s.curQ = q) : exec .sShow s = .next (passTo .sEntry q s) :=
  congrArg Host.Outcome.next (goSeq_eq_passTo hq .sEntry)

/-- S_ENTRY without a trigger goes on to the gate (R161). -/
theorem exec_sEntry_of_no_trigger {s : State} {q : Quantity} (hq : s.curQ = q) (h : entryTrigger s.pend = false) :
    exec .sEntry s = .next (passTo .eGate q s) :=
  congrArg Host.Outcome.next ((if_neg (ne_true_of_eq_false h)).trans (goSeq_eq_passTo hq .eGate))

/-- Temperature's gate, where it does not open, goes on to humidity's (R192, R193). -/
theorem exec_eGate_temperature {s : State} (hq : s.curQ = .temperature) (hcalm : Calm s .temperature) :
    exec .eGate s = .next (passTo .eGate .humidity s) :=
  exec_eGate_stays (hq.symm ▸ hcalm) hq

/-- Humidity's gate, where it does not open, goes on to S_GAP (R192, R193). -/
theorem exec_eGate_humidity {s : State} (hq : s.curQ = .humidity) (hcalm : Calm s .humidity) :
    exec .eGate s = .next (passTo .sGap .temperature s) :=
  exec_eGate_stays (hq.symm ▸ hcalm) hq

/-- Settles O54: S_SHOW and S_ENTRY, then the gates of temperature and of humidity. The flags S_ENTRY tests are the edges and
flags of the tick before, and none of the four operations writes what a gate reads. -/
theorem quietPassReachesTheGapInFourTicks : Obligations.QuietPassReachesTheGapInFourTicks := by
  intro s hrst hpoll hseq hq htrigger hquiet
  have hlow (n : Nat) (hn : n ≤ 4) : NoReset n s := fun k hk => hrst k (by omega)
  have hcalm := calm_of_quiet hquiet
  have hidle : s.spd = .idle := spd_idle_of_pollConsistent hpoll (by rw [hseq]; rfl)
  have hshow : PassAt s 0 .sShow .temperature s :=
    ⟨rfl, hseq, hq, hidle, ⟨rfl, rfl, ⟨rfl, rfl, rfl, rfl⟩, rfl, rfl, rfl, rfl⟩, fun _ _ => rfl⟩
  obtain ⟨s₁, hentry, -, hpend⟩ := hshow.tick (hlow 1 (by omega)) (exec_sShow hq)
  rw [← hpend] at htrigger
  obtain ⟨s₂, htemp, -, -⟩ := hentry.tick (hlow 2 (by omega)) (exec_sEntry_of_no_trigger hentry.curQ htrigger)
  obtain ⟨s₃, hhum, -, -⟩ := htemp.tick (hlow 3 (by omega)) (exec_eGate_temperature htemp.curQ (htemp.calm (hcalm _)))
  obtain ⟨s₄, hgap, htmr, -⟩ := hhum.tick (hlow 4 (by omega)) (exec_eGate_humidity hhum.curQ (hhum.calm (hcalm _)))
  have hreading := hgap.monitoring.reading
  exact ⟨s₄, hgap.run, hgap.seq, hgap.idle, htmr, hgap.curQ, hreading.hum, hreading.temp, hreading.valid,
    hgap.monitoring.alarmT, hgap.monitoring.alarmH⟩

end Sys2Proof.Proofs
end

/-! No fault and no refusal (70_reset_and_hazards.md R286): `rst` high resets, and with it low `seq` always names an operation that
makes one of the sequencer's moves. -/

namespace Sys2Proof.Proofs

open Sys2Proof.Machine Sys2Proof.Laws

/-- A tick answers a next state, at either level of `rst`. -/
theorem step_exists_next (s : State) : ∃ t, step s = .next t := by
  cases hrst : s.pins.rst with
  | true => exact ⟨_, step_of_rst_high s hrst⟩
  | false =>
    obtain ⟨u, hexec, -⟩ := exec_seq_move s
    exact ⟨_, (step_of_rst_low s hrst).trans (runTick_of_exec _ s u hexec)⟩

/-- Settles O8: the code in `seq` decodes to the state's own operation, and that operation makes one of the sequencer's
moves. -/
theorem everyStepAnswersANextState : Obligations.EveryStepAnswersANextState := by
  intro s
  obtain ⟨u, hexec, -⟩ := exec_seq_move s
  exact ⟨⟨s.seq.instr, decode_seq s.seq, u, hexec⟩, step_exists_next s⟩

end Sys2Proof.Proofs
